-- ==== Sys2Proof/Word.lean ====
section
/-! DEFINITION. The words of POlarPics CORE: the widths rule R6 (00_scope.md) and rule R45 (30_encoding.md) fix. -/

namespace Sys2Proof

/-- A command word, 32 bits, one item on the command port (R33, R45). -/
abbrev Word := BitVec 32

/-- A 16-bit register value: MSIZE, ROWS, COLS, the tags, HEIGHT, WIDTH (R6, R11 to R13, R20 to R24). -/
abbrev Half := BitVec 16

/-- A byte: one sample of PIX, one character of TXT, CH (R14, R19, R27). -/
abbrev Byte := BitVec 8

/-- A flag, or one element of DBIT or SBIT (R15, R20 to R23). -/
abbrev Bit := BitVec 1

end Sys2Proof
end

