-- ==== Sys2Proof/Syntax.lean ====
section
/-! DEFINITION. The thirteen commands of rule R47 (30_encoding.md), each with its immediate as the spec's unsigned
field (rule R48): one constructor per row of spec/opcode_table.json. -/

namespace Sys2Proof

/-- A command. The immediates are bit fields of the command word, used as they stand (R48). -/
inductive Instr where
  /-- NOP, format Z (R57). -/
  | nop
  /-- SETN imm16, format I16 (R58). -/
  | setn (imm16 : Half)
  /-- SETROWS imm16, format I16 (R59). -/
  | setrows (imm16 : Half)
  /-- SETCOLS imm16, format I16 (R60). -/
  | setcols (imm16 : Half)
  /-- SETCH imm8, format I8 (R61). -/
  | setch (imm8 : Byte)
  /-- PIXOK imm1, format I1 (R62). -/
  | pixok (imm1 : Bit)
  /-- GEN, format Z (R63). -/
  | gen
  /-- LUMA, format Z (R71). -/
  | luma
  /-- DITHER, format Z (R76). -/
  | dither
  /-- INVERT, format Z (R80). -/
  | invert
  /-- PACK, format Z (R83). -/
  | pack
  /-- CONVERT, format Z (R98). -/
  | convert
  /-- RST, format Z (R99). -/
  | rst
  deriving DecidableEq, Repr

end Sys2Proof
end

