-- ==== Sys2Proof/WellFormed.lean ====
section
/-! DEFINITION. Well-formed commands. A command as a host writes it (rule R51, 30_encoding.md) is a mnemonic with or
without an unsigned operand of any size; the check refuses one whose operand is missing, superfluous or too large for
its field ("an operand that does not fit its field is an assembly error, not a command"). The immediates of `Instr` are
bit fields, so every `Instr` is the value of a well-formed written command (DESIGN CHOICE, log entry 15). -/

namespace Sys2Proof

/-- The mnemonics of rule R47. -/
inductive Mnemonic where
  | nop | setn | setrows | setcols | setch | pixok | gen | luma | dither | invert | pack | convert | rst
  deriving DecidableEq, Repr

/-- All thirteen, in the order of the table of rule R47. -/
def Mnemonic.all : List Mnemonic :=
  [.nop, .setn, .setrows, .setcols, .setch, .pixok, .gen, .luma, .dither, .invert, .pack, .convert, .rst]

/-- One past the largest operand the mnemonic's format admits, or `none` where the format takes no operand
(R46, R51). -/
def Mnemonic.operandLimit : Mnemonic → Option Nat
  | .setn | .setrows | .setcols => some 65536
  | .setch => some 256
  | .pixok => some 2
  | .nop | .gen | .luma | .dither | .invert | .pack | .convert | .rst => none

/-- A command as written: a mnemonic followed by at most one unsigned operand (R51). -/
structure WrittenCommand where
  mnemonic : Mnemonic
  operand : Option Nat
  deriving DecidableEq, Repr

/-- The three checks of rule R51: an operand where the format has none, no operand where it has one, and an operand
that does not fit its field are refused. -/
def WrittenCommand.wellFormed (c : WrittenCommand) : Bool :=
  match c.mnemonic.operandLimit, c.operand with
  | none, none => true
  | none, some _ => false
  | some _, none => false
  | some limit, some v => decide (v < limit)

/-- The command a written command stands for, where it is well formed (R48, R51). -/
def WrittenCommand.instr? (c : WrittenCommand) : Option Instr :=
  if c.wellFormed then
    let v := c.operand.getD 0
    some (match c.mnemonic with
      | .nop => .nop
      | .setn => .setn (BitVec.ofNat 16 v)
      | .setrows => .setrows (BitVec.ofNat 16 v)
      | .setcols => .setcols (BitVec.ofNat 16 v)
      | .setch => .setch (BitVec.ofNat 8 v)
      | .pixok => .pixok (BitVec.ofNat 1 v)
      | .gen => .gen
      | .luma => .luma
      | .dither => .dither
      | .invert => .invert
      | .pack => .pack
      | .convert => .convert
      | .rst => .rst)
  else none

/-- The mnemonic of a command. -/
def Instr.mnemonic : Instr → Mnemonic
  | .nop => .nop
  | .setn _ => .setn
  | .setrows _ => .setrows
  | .setcols _ => .setcols
  | .setch _ => .setch
  | .pixok _ => .pixok
  | .gen => .gen
  | .luma => .luma
  | .dither => .dither
  | .invert => .invert
  | .pack => .pack
  | .convert => .convert
  | .rst => .rst

/-- How a command is written: its mnemonic and its operand (R51). -/
def Instr.written : Instr → WrittenCommand
  | .setn n => ⟨.setn, some n.toNat⟩
  | .setrows n => ⟨.setrows, some n.toNat⟩
  | .setcols n => ⟨.setcols, some n.toNat⟩
  | .setch n => ⟨.setch, some n.toNat⟩
  | .pixok n => ⟨.pixok, some n.toNat⟩
  | .nop => ⟨.nop, none⟩
  | .gen => ⟨.gen, none⟩
  | .luma => ⟨.luma, none⟩
  | .dither => ⟨.dither, none⟩
  | .invert => ⟨.invert, none⟩
  | .pack => ⟨.pack, none⟩
  | .convert => ⟨.convert, none⟩
  | .rst => ⟨.rst, none⟩

/-- A command is well formed when the way it is written is (R51). -/
def Instr.wellFormed (i : Instr) : Bool := i.written.wellFormed

end Sys2Proof
end

