-- ==== Sys2Proof/Decode.lean ====
section
/-! DEFINITION. Decoding of command words (30_encoding.md, rules R45 to R50), total and reading no state, and the
encoder written from the same table. -/

namespace Sys2Proof

/-- The four formats of rule R46. -/
inductive Format where
  | z | i16 | i8 | i1
  deriving DecidableEq, Repr

/-- Why a word is illegal (R49). -/
inductive IllegalWord where
  /-- The opcode is not one of the thirteen of rule R47. -/
  | unknownOpcode
  /-- The opcode is one of the thirteen, and a must-be-zero field of its format is not 0. -/
  | nonzeroField
  deriving DecidableEq, Repr

/-- The width of a format's immediate: the operand field's bits above it must be 0 (R46). -/
def Format.immWidth : Format → Nat
  | .z => 0
  | .i16 => 16
  | .i8 => 8
  | .i1 => 1

/-- The opcode of a mnemonic, bits 31:24 (R47). -/
def Mnemonic.opcode : Mnemonic → Byte
  | .nop => 0x00#8
  | .setn => 0x01#8
  | .setrows => 0x02#8
  | .setcols => 0x03#8
  | .setch => 0x04#8
  | .pixok => 0x05#8
  | .gen => 0x10#8
  | .luma => 0x11#8
  | .dither => 0x12#8
  | .invert => 0x13#8
  | .pack => 0x14#8
  | .convert => 0x1F#8
  | .rst => 0xFF#8

/-- The format of a mnemonic (R47). -/
def Mnemonic.format : Mnemonic → Format
  | .setn | .setrows | .setcols => .i16
  | .setch => .i8
  | .pixok => .i1
  | .nop | .gen | .luma | .dither | .invert | .pack | .convert | .rst => .z

/-- The `match` column of rule R47. -/
def Mnemonic.matchWord : Mnemonic → Word
  | .nop => 0x00000000#32
  | .setn => 0x01000000#32
  | .setrows => 0x02000000#32
  | .setcols => 0x03000000#32
  | .setch => 0x04000000#32
  | .pixok => 0x05000000#32
  | .gen => 0x10000000#32
  | .luma => 0x11000000#32
  | .dither => 0x12000000#32
  | .invert => 0x13000000#32
  | .pack => 0x14000000#32
  | .convert => 0x1F000000#32
  | .rst => 0xFF000000#32

/-- The `mask` column of rule R47. -/
def Mnemonic.maskWord : Mnemonic → Word
  | .setn | .setrows | .setcols => 0xFFFF0000#32
  | .setch => 0xFFFFFF00#32
  | .pixok => 0xFFFFFFFE#32
  | .nop | .gen | .luma | .dither | .invert | .pack | .convert | .rst => 0xFFFFFFFF#32

/-- Bits 31:24 of a word (R45). -/
def opcodeField (w : Word) : Byte := w.extractLsb' 24 8

/-- Bits 23:0 of a word (R45). -/
def operandField (w : Word) : BitVec 24 := w.extractLsb' 0 24

/-- imm16 = w[15:0] (R48). -/
def imm16Field (w : Word) : Half := w.extractLsb' 0 16

/-- imm8 = w[7:0] (R48). -/
def imm8Field (w : Word) : Byte := w.extractLsb' 0 8

/-- imm1 = w[0] (R48). -/
def imm1Field (w : Word) : Bit := w.extractLsb' 0 1

/-- The must-be-zero field of a format, moved down to bit 0: the bits of the operand field above the immediate
(R46). -/
def mustBeZeroField (f : Format) (w : Word) : BitVec 24 := operandField w >>> f.immWidth

/-- The row of rule R47 an opcode selects, if any. -/
def mnemonicOf (op : Byte) : Option Mnemonic := Mnemonic.all.find? fun m => m.opcode == op

/-- The command of a row with the immediate the word gives it (R47, R48). -/
def Mnemonic.withOperand (w : Word) : Mnemonic → Instr
  | .nop => .nop
  | .setn => .setn (imm16Field w)
  | .setrows => .setrows (imm16Field w)
  | .setcols => .setcols (imm16Field w)
  | .setch => .setch (imm8Field w)
  | .pixok => .pixok (imm1Field w)
  | .gen => .gen
  | .luma => .luma
  | .dither => .dither
  | .invert => .invert
  | .pack => .pack
  | .convert => .convert
  | .rst => .rst

/-- Decoding: every 32-bit word is exactly one of the thirteen commands or illegal (R49, R50). -/
def decode (w : Word) : Except IllegalWord Instr :=
  match mnemonicOf (opcodeField w) with
  | none => .error .unknownOpcode
  | some m => if mustBeZeroField m.format w = 0#24 then .ok (m.withOperand w) else .error .nonzeroField

/-- The operand field of a command: its immediate with zeros above it (R46, R48). -/
def Instr.operandBits : Instr → BitVec 24
  | .setn n => n.zeroExtend 24
  | .setrows n => n.zeroExtend 24
  | .setcols n => n.zeroExtend 24
  | .setch n => n.zeroExtend 24
  | .pixok n => n.zeroExtend 24
  | .nop | .gen | .luma | .dither | .invert | .pack | .convert | .rst => 0#24

/-- The word of a command: opcode ++ operand field (R45, R46, R47). -/
def encode (i : Instr) : Word := i.mnemonic.opcode ++ i.operandBits

/-- The exact RST word, which dispatch recognises before anything else (R96). -/
def rstWord : Word := 0xFF000000#32

/-- The 32-bit word whose bits below `nbits` are those of `w` and whose other bits are 0, numbered as
spec/opcode_table.json numbers them. The block takes a command word as one item on a port (R33), so there are no bytes
to order (log entry 12). -/
def tableWord (nbits w : Nat) : Word := BitVec.ofNat 32 (w % 2 ^ nbits)

/-- The instruction the decoder reads from an instruction whose bits are `w`. -/
def decodeTableWord (nbits w : Nat) : Option Instr :=
  match decode (tableWord nbits w) with
  | .ok i => some i
  | .error _ => none

end Sys2Proof
end

