-- ==== Sys2Proof/Config.lean ====
section
/-! DEFINITION. What the spec leaves to a build of the block (the OPEN parameters of rule R5, 00_scope.md) and the
free values: constants without a body, so that no proof can see what they are. -/

namespace Sys2Proof

/-- The OPEN parameters of rule R5: MAX_ROWS and MAX_COLS, each 1 to 65535. Each field holds the parameter less one,
so that every term of this type is a legal build. -/
structure Build where
  maxRowsLessOne : Fin 65535
  maxColsLessOne : Fin 65535
  deriving DecidableEq, Repr

/-- MAX_ROWS, the largest legal ROWS, 1 to 65535 (R5). -/
def Build.maxRows (b : Build) : Nat := b.maxRowsLessOne.val + 1

/-- MAX_COLS, the largest legal COLS, 1 to 65535 (R5). -/
def Build.maxCols (b : Build) : Nat := b.maxColsLessOne.val + 1

/-- PIXCAP, the capacity of the pixel memory in bytes: 3 × MAX_ROWS × MAX_COLS (R5). -/
def Build.pixcap (b : Build) : Nat := 3 * b.maxRows * b.maxCols

/-- The build `State.reset` stands for: MAX_ROWS = MAX_COLS = 65535, the largest the spec allows.
DESIGN CHOICE, unsafe (log entry 1): rule R5 leaves both OPEN; no statement rests on this value. -/
def Config.referenceBuild : Build := ⟨⟨65534, by decide⟩, ⟨65534, by decide⟩⟩

/-- What a byte of PIX that nothing has written reads as: FREE VALUE (R29, R41, R116; log entry 2). The first
argument numbers the power-on since which nothing has written it, the second is the byte's address, so that two reads
of the same unwritten byte agree. -/
opaque Config.powerOnPix : Nat → Nat → Byte

/-- What an element of BAYER that holds no value reads as: FREE VALUE (R32: such elements "hold no value and are never
read"; log entry 3). Reached only from states no run reaches. -/
opaque Config.unheldRank : Nat → Nat → BitVec 12

/-- What an element of LUM that holds no value reads as: FREE VALUE (R32; log entry 3). -/
opaque Config.unheldLum : Nat → Nat → BitVec 22

/-- What an element of DBIT that holds no value reads as: FREE VALUE (R32; log entry 3). -/
opaque Config.unheldDbit : Nat → Nat → Bit

/-- What an element of SBIT that holds no value reads as: FREE VALUE (R32; log entry 3). -/
opaque Config.unheldSbit : Nat → Nat → Bit

end Sys2Proof
end

