-- ==== Sys2Proof/Machine/State.lean ====
section
/-! DEFINITION. The state of POlarPics CORE as plain data: everything rule R10 (10_state.md) lists, and, marked as the
model's own, the build, the host's remaining actions, what the host has been told, and the power-on counter. -/

namespace Sys2Proof.Machine

/-- PIX, the pixel memory: the bytes the host has written since the last power-on, addresses strictly rising. An
address not listed holds no byte of the host's: it reads as `Config.powerOnPix` (R19, R116; log entry 2). -/
abbrev Memory := List Host.Cell

/-- The elements of a grid memory, a list of rows, top row first, leftmost element first (R7, R32). -/
abbrev Grid (w : Nat) := List (List (BitVec w))

/-- BAYER with BV and BN (R20). -/
structure Matrix where
  /-- BV -/
  valid : Bit
  /-- BN -/
  size : Half
  /-- `BAYER[a][b]`, 12 bits each -/
  ranks : Grid 12
  deriving DecidableEq, Repr

/-- A grid memory with its valid flag and its tag: LUM with LV, LROWS, LCOLS (R21), DBIT with DV, DROWS, DCOLS (R22),
SBIT with SV, SROWS, SCOLS (R23). -/
structure Plane (w : Nat) where
  valid : Bit
  rows : Half
  cols : Half
  cells : Grid w
  deriving DecidableEq, Repr

/-- One group of a packed column: `{value, nbits}` (R26). -/
structure Group where
  value : Byte
  nbits : Nat
  deriving DecidableEq, Repr

/-- One column record: `{c, s, groups}`, emission position, source column, groups top first (R26, R91). -/
structure Column where
  c : Nat
  s : Nat
  groups : List Group
  deriving DecidableEq, Repr

/-- One frame of OUT: `{height, width, columns}` (R26). -/
structure Frame where
  height : Half
  width : Half
  columns : List Column
  deriving DecidableEq, Repr

/-- The five fault kinds of rule R102. -/
inductive FaultKind where
  /-- Code 1, raised by GEN (R103). -/
  | invalidParameter
  /-- Code 2, raised by LUMA, DITHER, INVERT, PACK (R104). -/
  | dimensionMismatch
  /-- Code 3, raised by LUMA (R105). -/
  | malformedInput
  /-- Code 4, raised by DITHER, INVERT, PACK (R107). -/
  | notReady
  /-- Code 5, raised at command decode (R108). -/
  | illegalCommand
  deriving DecidableEq, Repr

/-- The stages that can raise (R17). -/
inductive Stage where
  | gen | luma | dither | invert | pack | commandDecode
  deriving DecidableEq, Repr

/-- What `raise F(stage)` names (R7, R106). -/
structure Raise where
  kind : FaultKind
  stage : Stage
  deriving DecidableEq, Repr

/-- The host's actions, each falling between two commands (R38 to R42), and the reset input (R114). -/
inductive HostAction where
  /-- HostCmd(w): present a word on the command port (R40). -/
  | command (w : Word)
  /-- HostPixWrite(addr, v) (R38). -/
  | pixWrite (addr : Nat) (v : Byte)
  /-- HostPixRead(addr) (R39). -/
  | pixRead (addr : Nat)
  /-- HostRegRead(k) (R39). -/
  | regRead (k : Nat)
  /-- Assert and release the reset input `rst` (R114). -/
  | resetInput
  deriving DecidableEq, Repr

/-- What a host read returned (R39). -/
inductive Reply where
  | pix (addr : Nat) (v : Byte)
  | reg (k : Nat) (v : Word)
  deriving DecidableEq, Repr

/-- The machine. The fields from `msize` to `txt` are the whole state of the block (R10); `build`, `powerOns`, `input`
and `replies` are the model's own (log entries 1, 2, 4, 5). -/
structure State where
  /-- The model's own: the OPEN parameters of the build, which no step changes (R5, R28). -/
  build : Build
  /-- MSIZE (R11) -/
  msize : Half
  /-- ROWS (R12) -/
  rows : Half
  /-- COLS (R13) -/
  cols : Half
  /-- CH (R14) -/
  ch : Byte
  /-- PIXOK (R15) -/
  pixok : Bit
  /-- ERR (R16) -/
  err : BitVec 3
  /-- ERRSTG (R17) -/
  errstg : BitVec 3
  /-- PIX (R19) -/
  pix : Memory
  /-- BAYER, BV, BN (R20) -/
  bayer : Matrix
  /-- LUM, LV, LROWS, LCOLS (R21) -/
  lum : Plane 22
  /-- DBIT, DV, DROWS, DCOLS (R22) -/
  dbit : Plane 1
  /-- SBIT, SV, SROWS, SCOLS (R23) -/
  sbit : Plane 1
  /-- HEIGHT (R24) -/
  height : Half
  /-- WIDTH (R24) -/
  width : Half
  /-- OUT, oldest frame first (R26) -/
  out : List Frame
  /-- TXT (R27) -/
  txt : List Byte
  /-- The model's own: assertions of the reset input so far; selects the free contents of PIX (R116). -/
  powerOns : Nat
  /-- The model's own: the remaining suffix of the host's sequence of actions (R18). -/
  input : List HostAction
  /-- The model's own: what the host's reads have returned, oldest first (R39). -/
  replies : List Reply
  deriving DecidableEq, Repr

/-- Why a step could stop with a fault: never. The block's five faults are recorded in ERR and ERRSTG and the machine
goes on (R106): they are next states. No rule gives the block a behaviour that stops it, so the type has no
constructor, and no step ends so (log entry 8). -/
inductive Fault where
  deriving DecidableEq, Repr

/-- Why a step is refused. -/
inductive Refusal where
  /-- Raised by an arm of `exec` for an instruction without a meaning yet; no arm does. Safe. -/
  | notModelled (mnemonic : String)
  /-- Raised by HostPixWrite and HostPixRead at an address at or above PIXCAP, which rule R36 says to treat "as
  refused (it gives the model no step)". Safe. -/
  | pixOutOfRange (addr : Nat)
  /-- Raised by HostRegRead of a number above 15, which rule R36 says to treat as refused. Safe. -/
  | regOutOfRange (k : Nat)
  deriving DecidableEq, Repr

/-- The state when the reset input is released, on a given build: the column "value after power-on reset" of rule R29.
PIX lists nothing (every byte unspecified, R116); the grid memories hold no element (their tags are empty, R32). -/
def State.resetOf (b : Build) : State where
  build := b
  msize := 16#16
  rows := 0#16
  cols := 0#16
  ch := 3#8
  pixok := 0#1
  err := 0#3
  errstg := 0#3
  pix := []
  bayer := ⟨0#1, 0#16, []⟩
  lum := ⟨0#1, 0#16, 0#16, []⟩
  dbit := ⟨0#1, 0#16, 0#16, []⟩
  sbit := ⟨0#1, 0#16, 0#16, []⟩
  height := 0#16
  width := 0#16
  out := []
  txt := []
  powerOns := 0
  input := []
  replies := []

/-- The machine right after reset (R29, R114), on the reference build (log entry 1), the host having nothing to do yet
(log entry 4). -/
def State.reset : State := State.resetOf Config.referenceBuild

end Sys2Proof.Machine
end

