-- ==== Sys2Proof/Machine/Params.lean ====
section
/-! DEFINITION. The parameters of the block that have a value (rule R5, 00_scope.md). -/

namespace Sys2Proof.Machine

/-- DEFAULT_N: the reset value of MSIZE (R5, R11). -/
def defaultN : Nat := 16

/-- MIN_N (R5, R64). -/
def minN : Nat := 2

/-- MAX_N (R5, R64). -/
def maxN : Nat := 64

/-- CHANNELS: the one legal channel count (R5, R14). -/
def channels : Nat := 3

/-- WR: the weight of red over WDEN (R5, R72). -/
def weightR : Nat := 2989

/-- WG: the weight of green over WDEN (R5, R72). -/
def weightG : Nat := 5870

/-- WB: the weight of blue over WDEN (R5, R72). -/
def weightB : Nat := 1140

/-- WDEN: the common denominator of the weights (R5, R72). -/
def weightDen : Nat := 10000

/-- LMAX: the top of the luminance domain (R5, R68). -/
def lumMax : Nat := 255

/-- GROUP: rows per packed group (R5, R86). -/
def groupRows : Nat := 8

/-- SEP: the text between two literals of a line (R5, R89). -/
def sep : List Byte := [0x2C#8]

/-- EOL: the text that ends a line (R5, R89). -/
def eol : List Byte := [0x0A#8]

end Sys2Proof.Machine
end

