-- ==== Sys2Proof/Machine/Ops.lean ====
section
/-! DEFINITION. The named operations over the memories and registers, and taking a fault with the recovery from it
(rules R19 to R27, R29, R38, R39, R99, R106, R114). -/

namespace Sys2Proof.Machine

/-! ### PIX -/

/-- The byte listed at an address, if the host has written one since power-on (R19, R38). -/
def Memory.read? : Memory → Nat → Option Byte
  | [], _ => none
  | (b, u) :: m, a => if a = b then some u else Memory.read? m a

/-- The memory with one byte written, addresses kept strictly rising (R38). -/
def Memory.write : Memory → Nat → Byte → Memory
  | [], a, v => [(a, v)]
  | (b, u) :: m, a, v =>
    if a < b then (a, v) :: (b, u) :: m
    else if a = b then (a, v) :: m
    else (b, u) :: Memory.write m a v

/-- The canonical form: addresses strictly rising. An unlisted address holds no byte of the host's, which no entry can
be equal to, so no entry is superfluous (log entry 2). -/
def Memory.wf : Memory → Bool
  | [] => true
  | [_] => true
  | (a, _) :: (b, v) :: m => decide (a < b) && Memory.wf ((b, v) :: m)

/-- `MemRead(PIX, addr, 1)` (R7, R33): the byte the host wrote there, or the byte's unknown power-on value
(R39, R41, R116; log entry 2). -/
def State.pixByte (s : State) (a : Nat) : Byte := (Memory.read? s.pix a).getD (Config.powerOnPix s.powerOns a)

/-- `MemWrite(PIX, addr, 1, v)`, the host's only write: PIX[addr] <- v and nothing else (R38). -/
def State.writePix (s : State) (a : Nat) (v : Byte) : State := { s with pix := Memory.write s.pix a v }

/-! ### Grid memories -/

/-- A grid of the given numbers of rows and columns with element `f i j` at row `i`, column `j` (R7, R32). -/
def Grid.build {w : Nat} (rows cols : Nat) (f : Nat → Nat → BitVec w) : Grid w :=
  (List.range rows).map fun i => (List.range cols).map fun j => f i j

/-- The element at row `i`, column `j`, where the grid holds one (R7, R32). -/
def Grid.read? {w : Nat} (g : Grid w) (i j : Nat) : Option (BitVec w) := (g[i]?).bind fun row => row[j]?

/-- `BAYER[a][b]` (R20). -/
def State.bayerAt (s : State) (a b : Nat) : BitVec 12 := (Grid.read? s.bayer.ranks a b).getD (Config.unheldRank a b)

/-- `LUM[i][j]` (R21). -/
def State.lumAt (s : State) (i j : Nat) : BitVec 22 := (Grid.read? s.lum.cells i j).getD (Config.unheldLum i j)

/-- `DBIT[i][j]` (R22). -/
def State.dbitAt (s : State) (i j : Nat) : Bit := (Grid.read? s.dbit.cells i j).getD (Config.unheldDbit i j)

/-- `SBIT[i][j]` (R23). -/
def State.sbitAt (s : State) (i j : Nat) : Bit := (Grid.read? s.sbit.cells i j).getD (Config.unheldSbit i j)

/-- BAYER <- ranks, BN <- n, BV <- 1: all that GEN writes (R63). -/
def State.putBayer (s : State) (n : Half) (ranks : Grid 12) : State := { s with bayer := ⟨1#1, n, ranks⟩ }

/-- LUM <- cells, LROWS, LCOLS, LV <- 1: all that LUMA writes (R71). -/
def State.putLum (s : State) (rows cols : Half) (cells : Grid 22) : State := { s with lum := ⟨1#1, rows, cols, cells⟩ }

/-- DBIT <- cells, DROWS, DCOLS, DV <- 1: all that DITHER writes (R76). -/
def State.putDbit (s : State) (rows cols : Half) (cells : Grid 1) : State := { s with dbit := ⟨1#1, rows, cols, cells⟩ }

/-- SBIT <- cells, SROWS, SCOLS, SV <- 1: all that INVERT writes (R80). -/
def State.putSbit (s : State) (rows cols : Half) (cells : Grid 1) : State := { s with sbit := ⟨1#1, rows, cols, cells⟩ }

/-- HEIGHT, WIDTH, `emit OUT(frame)`, `emit TXT(text)`: all that PACK writes (R7, R24, R26, R27, R83). -/
def State.emit (s : State) (f : Frame) (text : List Byte) : State :=
  { s with height := f.height, width := f.width, out := s.out ++ [f], txt := s.txt ++ text }

/-! ### Configuration registers -/

/-- MSIZE <- v (R58). -/
def State.setMsize (s : State) (v : Half) : State := { s with msize := v }

/-- ROWS <- v (R59). -/
def State.setRows (s : State) (v : Half) : State := { s with rows := v }

/-- COLS <- v (R60). -/
def State.setCols (s : State) (v : Half) : State := { s with cols := v }

/-- CH <- v (R61). -/
def State.setCh (s : State) (v : Byte) : State := { s with ch := v }

/-- PIXOK <- v (R62). -/
def State.setPixok (s : State) (v : Bit) : State := { s with pixok := v }

/-! ### Taking a fault, and recovery -/

/-- The numeric code of a fault kind (R16, R102). -/
def FaultKind.code : FaultKind → BitVec 3
  | .invalidParameter => 1#3
  | .dimensionMismatch => 2#3
  | .malformedInput => 3#3
  | .notReady => 4#3
  | .illegalCommand => 5#3

/-- The stage number (R17). -/
def Stage.number : Stage → BitVec 3
  | .gen => 1#3
  | .luma => 2#3
  | .dither => 3#3
  | .invert => 4#3
  | .pack => 5#3
  | .commandDecode => 7#3

/-- `raise F(stage)`, the only way a fault is taken: ERR <- code(F), ERRSTG <- stage, and nothing else changes
(R106). There is no handler, no vector and no saved return point; control returns to the host. -/
def State.takeFault (s : State) (r : Raise) : State := { s with err := r.kind.code, errstg := r.stage.number }

/-- What RST does, the only recovery from a fault but the reset input: every register and flag to its reset value,
PIX and the histories OUT and TXT kept (R29, R99, R110, R115). The grid memories hold no element afterwards (their
tags are empty, R32; log entry 3). -/
def State.softReset (s : State) : State :=
  { s with
    msize := BitVec.ofNat 16 defaultN
    rows := 0#16
    cols := 0#16
    ch := BitVec.ofNat 8 channels
    pixok := 0#1
    err := 0#3
    errstg := 0#3
    bayer := ⟨0#1, 0#16, []⟩
    lum := ⟨0#1, 0#16, 0#16, []⟩
    dbit := ⟨0#1, 0#16, 0#16, []⟩
    sbit := ⟨0#1, 0#16, 0#16, []⟩
    height := 0#16
    width := 0#16 }

/-- What the reset input does, asserted and released: the power-on reset state of rule R29, with PIX unspecified anew
(R114, R116). The build, the host's remaining actions and what it has been told are no state of the block and stay
(log entry 13). -/
def State.powerOnReset (s : State) : State :=
  { State.resetOf s.build with powerOns := s.powerOns + 1, input := s.input, replies := s.replies }

/-! ### The host's side -/

/-- Record what a host read returned; no state of the block changes (R39; log entry 5). -/
def State.reply (s : State) (r : Reply) : State := { s with replies := s.replies ++ [r] }

/-- The host's sequence moves on (R18, R42). -/
def State.withInput (s : State) (rest : List HostAction) : State := { s with input := rest }

/-! ### Stages -/

/-- Run stages one after another, each on the state the one before it left; the first that raises ends the command
with its fault recorded, and the stages before it keep what they wrote (R98, R106). One stage alone is a stage
command. -/
def runStages : List (State → Except Raise State) → State → State
  | [], s => s
  | stage :: rest, s =>
    match stage s with
    | .ok t => runStages rest t
    | .error r => s.takeFault r

end Sys2Proof.Machine
end

