-- ==== Sys2Proof/Machine/Configure.lean ====
section
/-! DEFINITION. The configuration commands NOP, SETN, SETROWS, SETCOLS, SETCH, PIXOK (40_config_commands.md, rules R56
to R62). None can fault once decoded; each writes at most one register and nothing else (R56). -/

namespace Sys2Proof.Machine

/-- NOP: nothing (R57). -/
def execNop (s : State) : Host.Outcome State Fault Refusal := .next s

/-- SETN imm16: MSIZE <- imm16, not checked here (R58). -/
def execSetn (imm16 : Half) (s : State) : Host.Outcome State Fault Refusal := .next (s.setMsize imm16)

/-- SETROWS imm16: ROWS <- imm16 (R59). -/
def execSetrows (imm16 : Half) (s : State) : Host.Outcome State Fault Refusal := .next (s.setRows imm16)

/-- SETCOLS imm16: COLS <- imm16 (R60). -/
def execSetcols (imm16 : Half) (s : State) : Host.Outcome State Fault Refusal := .next (s.setCols imm16)

/-- SETCH imm8: CH <- imm8 (R61). -/
def execSetch (imm8 : Byte) (s : State) : Host.Outcome State Fault Refusal := .next (s.setCh imm8)

/-- PIXOK imm1: PIXOK <- imm1 (R62). -/
def execPixok (imm1 : Bit) (s : State) : Host.Outcome State Fault Refusal := .next (s.setPixok imm1)

end Sys2Proof.Machine
end

