-- ==== Sys2Proof/Machine/Operands.lean ====
section
/-! DEFINITION. What the commands compute from before they write: the address of a sample, the legality of a matrix
size and of the dimensions, and the agreement of a tag with the configuration (rules R31, R64, R71, R76, R80, R83,
R104). The immediates of the command word are read in Decode.lean. -/

namespace Sys2Proof.Machine

/-- PixAddr(i, j, k) = 3·(i·COLS + j) + k (R31). -/
def pixAddr (cols i j k : Nat) : Nat := channels * (i * cols + j) + k

/-- The sample of channel `k` of the pixel in row `i`, column `j`, under the COLS in force (R31). -/
def State.sample (s : State) (i j k : Nat) : Nat := (s.pixByte (pixAddr s.cols.toNat i j k)).toNat

/-- IsValidN(n): exactly the sizes 2, 4, 8, 16, 32, 64 (R64). -/
def isValidN (n : Nat) : Bool := n == 2 || n == 4 || n == 8 || n == 16 || n == 32 || n == 64

/-- 1 ≤ ROWS ≤ MAX_ROWS and 1 ≤ COLS ≤ MAX_COLS (R71). -/
def State.dimensionsLegal (s : State) : Bool :=
  decide (1 ≤ s.rows.toNat) && decide (s.rows.toNat ≤ s.build.maxRows) &&
    decide (1 ≤ s.cols.toNat) && decide (s.cols.toNat ≤ s.build.maxCols)

/-- The tag of a grid is (ROWS, COLS) (R76, R80, R83, R104). -/
def State.tagMatches {w : Nat} (s : State) (p : Plane w) : Bool := p.rows == s.rows && p.cols == s.cols

end Sys2Proof.Machine
end

