-- ==== Sys2Proof/Machine/Bayer.lean ====
section
/-! DEFINITION. The Bayer Matrix Generator, command GEN (41_bayer_generator.md, rules R63 to R70). -/

namespace Sys2Proof.Machine

/-- The base matrix [[0,2],[3,1]] (R65). -/
def baseRank : Nat → Nat → Nat
  | 0, 0 => 0
  | 0, _ + 1 => 2
  | _ + 1, 0 => 3
  | _ + 1, _ + 1 => 1

/-- The recursion of rule R65 by level: level `k` is the matrix of size 2^(k+1), made of four copies of the matrix of
half its size. -/
def bayerRank : Nat → Nat → Nat → Nat
  | 0, a, b => baseRank a b
  | k + 1, a, b =>
    let h := 2 ^ (k + 1)
    if a < h then
      if b < h then 4 * bayerRank k a b else 4 * bayerRank k a (b - h) + 2
    else
      if b < h then 4 * bayerRank k (a - h) b + 3 else 4 * bayerRank k (a - h) (b - h) + 1

/-- Gen(n)[a][b] for a legal size n (R65). No rule evaluates it at another size. -/
def genRank (n a b : Nat) : Nat := bayerRank (n.log2 - 1) a b

/-- The matrix Gen(n) as BAYER holds it, each rank in 12 bits (R20, R63). -/
def genGrid (n : Nat) : Grid 12 := Grid.build n n fun a b => BitVec.ofNat 12 (genRank n a b)

/-- Thr(g, n) = 255·(1 + g) / (1 + n²), an exact rational (R68). DITHER compares against it by cross-multiplication
(R77). -/
def thr (g n : Nat) : ℚ := (lumMax * (1 + g) : ℚ) / (1 + n ^ 2 : ℚ)

/-- The stage GEN (R63). -/
def genStage (s : State) : Except Raise State :=
  if isValidN s.msize.toNat then .ok (s.putBayer s.msize (genGrid s.msize.toNat))
  else .error ⟨.invalidParameter, .gen⟩

/-- GEN (R63). -/
def execGen (s : State) : Host.Outcome State Fault Refusal := .next (runStages [genStage] s)

end Sys2Proof.Machine
end

