-- ==== Sys2Proof/Machine/Dither.lean ====
section
/-! DEFINITION. The Ordered Ditherer, commands DITHER and INVERT (43_ordered_ditherer.md, rules R76 to R82). -/

namespace Sys2Proof.Machine

/-- Above(S, g, n): S·(1 + n²) > 2550000·(1 + g), strict, on natural numbers (R77). 2550000 is LMAX·WDEN. -/
def above (S g n : Nat) : Bool := decide (S * (1 + n ^ 2) > lumMax * weightDen * (1 + g))

/-- The dither decision of pixel (i, j): its luminance against the matrix entry at (i mod BN, j mod BN)
(R76, R78). -/
def State.ditherBit (s : State) (i j : Nat) : Bit :=
  let n := s.bayer.size.toNat
  if above (s.lumAt i j).toNat (s.bayerAt (i % n) (j % n)).toNat n then 1#1 else 0#1

/-- The stage DITHER, its three checks in the order of rule R76 (R109). -/
def ditherStage (s : State) : Except Raise State :=
  if s.lum.valid = 0#1 ∨ s.bayer.valid = 0#1 then .error ⟨.notReady, .dither⟩
  else if s.tagMatches s.lum = false then .error ⟨.dimensionMismatch, .dither⟩
  else if s.bayer.size ≠ s.msize then .error ⟨.dimensionMismatch, .dither⟩
  else .ok (s.putDbit s.lum.rows s.lum.cols (Grid.build s.lum.rows.toNat s.lum.cols.toNat s.ditherBit))

/-- DITHER (R76). -/
def execDither (s : State) : Host.Outcome State Fault Refusal := .next (runStages [ditherStage] s)

/-- The stored bit of pixel (i, j): 1 − DBIT[i][j] (R80). -/
def State.storedBit (s : State) (i j : Nat) : Bit := 1#1 - s.dbitAt i j

/-- The stage INVERT, its two checks in the order of rule R80 (R109). -/
def invertStage (s : State) : Except Raise State :=
  if s.dbit.valid = 0#1 then .error ⟨.notReady, .invert⟩
  else if s.tagMatches s.dbit = false then .error ⟨.dimensionMismatch, .invert⟩
  else .ok (s.putSbit s.dbit.rows s.dbit.cols (Grid.build s.dbit.rows.toNat s.dbit.cols.toNat s.storedBit))

/-- INVERT (R80). -/
def execInvert (s : State) : Host.Outcome State Fault Refusal := .next (runStages [invertStage] s)

end Sys2Proof.Machine
end

