-- ==== Sys2Proof/Machine/Luma.lean ====
section
/-! DEFINITION. The Grayscale Reducer, command LUMA (42_grayscale_reducer.md, rules R71 to R75). -/

namespace Sys2Proof.Machine

/-- LumNum(R, G, B) = 2989·R + 5870·G + 1140·B: the luminance times 10000, exact (R72, R73). -/
def lumNum (r g b : Nat) : Nat := weightR * r + weightG * g + weightB * b

/-- The luminance grid of PIX under ROWS and COLS, each numerator in 22 bits (R21, R71). -/
def State.lumGrid (s : State) : Grid 22 :=
  Grid.build s.rows.toNat s.cols.toNat fun i j =>
    BitVec.ofNat 22 (lumNum (s.sample i j 0) (s.sample i j 1) (s.sample i j 2))

/-- The stage LUMA, its three checks in the order of rule R71 (R109). -/
def lumaStage (s : State) : Except Raise State :=
  if s.pixok = 0#1 then .error ⟨.malformedInput, .luma⟩
  else if s.ch ≠ BitVec.ofNat 8 channels then .error ⟨.dimensionMismatch, .luma⟩
  else if s.dimensionsLegal = false then .error ⟨.dimensionMismatch, .luma⟩
  else .ok (s.putLum s.rows s.cols s.lumGrid)

/-- LUMA (R71). -/
def execLuma (s : State) : Host.Outcome State Fault Refusal := .next (runStages [lumaStage] s)

end Sys2Proof.Machine
end

