-- ==== Sys2Proof/Machine/Pack.lean ====
section
/-! DEFINITION. The Bit Packer / Encoder, command PACK (44_bit_packer.md, rules R83 to R95), and the record stream of
rule R53 (30_encoding.md). -/

namespace Sys2Proof.Machine

/-- Src(c, cols) = (cols − c) mod cols: the source column read at emission position c (R84). -/
def src (c cols : Nat) : Nat := (cols - c) % cols

/-- NGroups(rows) = ceil(rows / 8) (R86). -/
def nGroups (rows : Nat) : Nat := (rows + (groupRows - 1)) / groupRows

/-- GroupBits(k) = min(8, SROWS − 8k) (R86). -/
def groupBits (rows k : Nat) : Nat := min groupRows (rows - groupRows * k)

/-- GroupVal(s, k): the bits of rows 8k to 8k + GroupBits(k) − 1 of source column `col`, the top row most significant
(R86, R87). -/
def State.groupVal (s : State) (col k : Nat) : Nat :=
  let n := groupBits s.sbit.rows.toNat k
  ((List.range n).map fun t => (s.sbitAt (groupRows * k + t) col).toNat * 2 ^ (n - 1 - t)).sum

/-- The groups of a source column, top group first (R83, R86). -/
def State.groupsOf (s : State) (col : Nat) : List Group :=
  (List.range (nGroups s.sbit.rows.toNat)).map fun k =>
    ⟨BitVec.ofNat 8 (s.groupVal col k), groupBits s.sbit.rows.toNat k⟩

/-- Dig(d): the ASCII code of a hexadecimal digit, lowercase (R88). -/
def hexDigit (d : Nat) : Byte := BitVec.ofNat 8 (if d ≤ 9 then 0x30 + d else 0x61 + d - 10)

/-- HexLit(v): `0x` and the minimal lowercase hexadecimal digits of v, 0 ≤ v ≤ 255 (R88). -/
def hexLit (v : Nat) : List Byte :=
  0x30#8 :: 0x78#8 :: (if v < 16 then [hexDigit v] else [hexDigit (v / 16), hexDigit (v % 16)])

/-- The literals of a list of values with SEP between consecutive literals only (R89). -/
def joinLiterals : List Nat → List Byte
  | [] => []
  | [v] => hexLit v
  | v :: u :: vs => hexLit v ++ sep ++ joinLiterals (u :: vs)

/-- The text line of a list of group values: the literals, then EOL (R89). -/
def lineOf (values : List Nat) : List Byte := joinLiterals values ++ eol

/-- Line(s): the text line of source column `col` (R89). -/
def State.line (s : State) (col : Nat) : List Byte :=
  lineOf ((List.range (nGroups s.sbit.rows.toNat)).map fun k => s.groupVal col k)

/-- The column record emitted at position c (R83, R91). -/
def State.columnRecord (s : State) (c : Nat) : Column :=
  let col := src c s.sbit.cols.toNat
  ⟨c, col, s.groupsOf col⟩

/-- The frame PACK emits, columns in emission order (R83). -/
def State.packFrame (s : State) : Frame :=
  ⟨s.sbit.rows, s.sbit.cols, (List.range s.sbit.cols.toNat).map s.columnRecord⟩

/-- The text PACK emits: the lines of the source columns in emission order (R83, R90). -/
def State.packText (s : State) : List Byte :=
  (List.range s.sbit.cols.toNat).flatMap fun c => s.line (src c s.sbit.cols.toNat)

/-- The stage PACK, its two checks in the order of rule R83 (R109), both before the first emission. -/
def packStage (s : State) : Except Raise State :=
  if s.sbit.valid = 0#1 then .error ⟨.notReady, .pack⟩
  else if s.tagMatches s.sbit = false then .error ⟨.dimensionMismatch, .pack⟩
  else .ok (s.emit s.packFrame s.packText)

/-- PACK (R83). -/
def execPack (s : State) : Host.Outcome State Fault Refusal := .next (runStages [packStage] s)

/-! ### The two outputs as functions of OUT -/

/-- The text line of a column record (R89). -/
def Column.text (c : Column) : List Byte := lineOf (c.groups.map fun g => g.value.toNat)

/-- The text of a frame (R27, R90). -/
def Frame.text (f : Frame) : List Byte := f.columns.flatMap Column.text

/-- The text history as a function of OUT (R27). -/
def textOf (out : List Frame) : List Byte := out.flatMap Frame.text

/-- One item of the record output: kind[1:0] ++ data[31:0] (R53). -/
abbrev RecordItem := BitVec 34

/-- GROUP, kind 2: [31:12] zero, [11:8] nbits, [7:0] value (R53). -/
def Group.item (g : Group) : RecordItem := 2#2 ++ (0#20 ++ BitVec.ofNat 4 g.nbits ++ g.value : Word)

/-- COL_START, kind 1: [31:16] emission position, [15:0] source column; then the column's groups (R53). -/
def Column.items (c : Column) : List RecordItem :=
  (1#2 ++ (BitVec.ofNat 16 c.c ++ BitVec.ofNat 16 c.s : Word)) :: c.groups.map Group.item

/-- FRAME_START, kind 0: [31:16] height, [15:0] width; the columns; FRAME_END, kind 3, data zero (R53). -/
def Frame.items (f : Frame) : List RecordItem :=
  (0#2 ++ (f.height ++ f.width : Word)) :: (f.columns.flatMap Column.items ++ [3#2 ++ 0#32])

/-- The record output as a stream of items (R53). -/
def recordStream (out : List Frame) : List RecordItem := out.flatMap Frame.items

end Sys2Proof.Machine
end

