-- ==== Sys2Proof/Machine/Control.lean ====
section
/-! DEFINITION. CONVERT and RST (45_convert_and_control.md, rules R98, R99). -/

namespace Sys2Proof.Machine

/-- CONVERT: GEN, LUMA, DITHER, INVERT, PACK in order, each on the state the one before it left, stopping at the first
that raises (R98). -/
def execConvert (s : State) : Host.Outcome State Fault Refusal :=
  .next (runStages [genStage, lumaStage, ditherStage, invertStage, packStage] s)

/-- RST: return to the reset state, PIX, OUT and TXT kept (R99). -/
def execRst (s : State) : Host.Outcome State Fault Refusal := .next s.softReset

end Sys2Proof.Machine
end

