-- ==== Sys2Proof/Machine/Dispatch.lean ====
section
/-! DEFINITION. One arm per command, one direct call of its meaning. -/

namespace Sys2Proof.Machine

def exec (i : Instr) (s : State) : Host.Outcome State Fault Refusal :=
  match i with
  | .nop => Sys2Proof.Machine.execNop s
  | .setn imm16 => Sys2Proof.Machine.execSetn imm16 s
  | .setrows imm16 => Sys2Proof.Machine.execSetrows imm16 s
  | .setcols imm16 => Sys2Proof.Machine.execSetcols imm16 s
  | .setch imm8 => Sys2Proof.Machine.execSetch imm8 s
  | .pixok imm1 => Sys2Proof.Machine.execPixok imm1 s
  | .gen => Sys2Proof.Machine.execGen s
  | .luma => Sys2Proof.Machine.execLuma s
  | .dither => Sys2Proof.Machine.execDither s
  | .invert => Sys2Proof.Machine.execInvert s
  | .pack => Sys2Proof.Machine.execPack s
  | .convert => Sys2Proof.Machine.execConvert s
  | .rst => Sys2Proof.Machine.execRst s

end Sys2Proof.Machine
end

