-- ==== Sys2Proof/Machine/Flags.lean ====
section
/-! DEFINITION. The register read port (rule R25, 10_state.md): the views FLAGS and FAULT and the sixteen register
numbers. Reads have no side effect. -/

namespace Sys2Proof.Machine

/-- FLAGS: [0] PIXOK, [1] BV, [2] LV, [3] DV, [4] SV, [31:5] zero (R25). -/
def State.flagsWord (s : State) : Word :=
  (s.sbit.valid ++ s.dbit.valid ++ s.lum.valid ++ s.bayer.valid ++ s.pixok : BitVec 5).zeroExtend 32

/-- FAULT: [2:0] ERR, [3] zero, [6:4] ERRSTG, [31:7] zero (R25). -/
def State.faultWord (s : State) : Word := (s.errstg ++ 0#1 ++ s.err : BitVec 7).zeroExtend 32

/-- The 32-bit value of register number `k`, zeros above the register's width; number 15 is reserved and reads 0
(R25). Numbers above 15 never get here: the host access is refused (R36). -/
def State.readReg (s : State) : Nat → Word
  | 0 => s.msize.zeroExtend 32
  | 1 => s.rows.zeroExtend 32
  | 2 => s.cols.zeroExtend 32
  | 3 => s.ch.zeroExtend 32
  | 4 => s.flagsWord
  | 5 => s.faultWord
  | 6 => s.bayer.size.zeroExtend 32
  | 7 => s.lum.rows.zeroExtend 32
  | 8 => s.lum.cols.zeroExtend 32
  | 9 => s.dbit.rows.zeroExtend 32
  | 10 => s.dbit.cols.zeroExtend 32
  | 11 => s.sbit.rows.zeroExtend 32
  | 12 => s.sbit.cols.zeroExtend 32
  | 13 => s.height.zeroExtend 32
  | 14 => s.width.zeroExtend 32
  | _ => 0#32

end Sys2Proof.Machine
end

