-- ==== Sys2Proof/Machine/Interface.lean ====
section
/-! DEFINITION. Command dispatch (rule R96, 45_convert_and_control.md) and the host's actions (rules R36 to R42,
20_memory.md; R114, 70_reset_and_hazards.md). -/

namespace Sys2Proof.Machine

/-- Command dispatch, in the order of rule R96: the exact RST word is executed whatever ERR holds; while a fault is
recorded every other word is discarded undecoded; an illegal word raises IllegalCommand in stage 7; any other word is
executed by its command's rule (DEDUCED: the test of ERR stands here and not in the commands, log entry 7). -/
def present (w : Word) (s : State) : Host.Outcome State Fault Refusal :=
  if w = rstWord then exec .rst s
  else if s.err ≠ 0#3 then .next s
  else
    match decode w with
    | .error _ => .next (s.takeFault ⟨.illegalCommand, .commandDecode⟩)
    | .ok i => exec i s

/-- One action of the host: HostCmd (R40), HostPixWrite (R38), HostPixRead and HostRegRead (R39), each refused out of
range (R36), and the reset input (R114). -/
def performAction (a : HostAction) (s : State) : Host.Outcome State Fault Refusal :=
  match a with
  | .command w => present w s
  | .pixWrite addr v => if addr < s.build.pixcap then .next (s.writePix addr v) else .refused (.pixOutOfRange addr)
  | .pixRead addr =>
    if addr < s.build.pixcap then .next (s.reply (.pix addr (s.pixByte addr))) else .refused (.pixOutOfRange addr)
  | .regRead k => if k < 16 then .next (s.reply (.reg k (s.readReg k))) else .refused (.regOutOfRange k)
  | .resetInput => .next s.powerOnReset

/-- The next action of the host, taken off its sequence, is performed to completion (R18, R40, R42, R97). With no action
left the block is idle and nothing changes (R113, R114; log entry 4). -/
def performNext (s : State) : Host.Outcome State Fault Refusal :=
  match s.input with
  | [] => .next s
  | a :: rest => performAction a (s.withInput rest)

/-- The state with a command word put before everything the host still has to do (R18, R40). -/
def State.withCommand (s : State) (w : Word) : State := s.withInput (.command w :: s.input)

end Sys2Proof.Machine
end

