-- ==== Sys2Proof/Machine/Step.lean ====
section
/-! DEFINITION. One step of the machine: one action of the host (rules R18, R40, R42, R97). -/

namespace Sys2Proof.Machine

/-- One step: the host's next action, performed to completion. -/
def step (s : State) : Host.Outcome State Fault Refusal := Sys2Proof.Machine.performNext s

/-- `s` with the instruction whose bits are `w` presented next on the command port: the block does not fetch (R18), so
the word is put at the head of the host's remaining actions and nothing else changes (log entry 4). -/
def State.withFetchWord (s : State) (nbits w : Nat) : State := s.withCommand (tableWord nbits w)

end Sys2Proof.Machine
end

