-- ==== Sys2Proof/Machine/Assembler.lean ====
section
/-! DEFINITION. The assembler syntax of the spec's listings (rules R51, R52, 30_encoding.md): one command a line, text
after `;` a comment, the two pseudo-commands SETDIM and STAGES, and the host actions PIXW and REGR that do not go
through the command port. A line becomes the host actions it stands for. -/

namespace Sys2Proof.Machine

/-- What one line of a listing says (R51, R52). -/
inductive AsmLine where
  /-- Nothing but white space and a comment. -/
  | empty
  /-- A command. -/
  | command (c : WrittenCommand)
  /-- `SETDIM r, c` (R52). -/
  | setdim (r c : Nat)
  /-- `STAGES` (R52). -/
  | stages
  /-- `PIXW addr, v0 v1 …` (R51). -/
  | pixw (addr : Nat) (values : List Nat)
  /-- `REGR k` (R51). -/
  | regr (k : Nat)
  deriving DecidableEq, Repr

/-- HostCmd of a command's word (R40). -/
def commandAction (i : Instr) : HostAction := .command (encode i)

/-- HostPixWrite of consecutive bytes from an address (R38, R51). -/
def pixWrites : Nat → List Byte → List HostAction
  | _, [] => []
  | a, v :: vs => .pixWrite a v :: pixWrites (a + 1) vs

/-- The five stage commands in order, what `STAGES` stands for (R52). -/
def stageCommands : List Instr := [.gen, .luma, .dither, .invert, .pack]

/-- The host actions a line stands for; none where an operand does not fit its field, "an assembly error, not a
command" (R51, R52). -/
def AsmLine.actions : AsmLine → Option (List HostAction)
  | .empty => some []
  | .command c => c.instr?.map fun i => [commandAction i]
  | .setdim r c =>
    match (WrittenCommand.mk .setrows (some r)).instr?, (WrittenCommand.mk .setcols (some c)).instr? with
    | some i, some j => some [commandAction i, commandAction j]
    | _, _ => none
  | .stages => some (stageCommands.map commandAction)
  | .pixw addr values =>
    if values.all fun v => decide (v < 256) then some (pixWrites addr (values.map (BitVec.ofNat 8))) else none
  | .regr k => some [.regRead k]

/-- A mnemonic in capitals (R47, R51). -/
def Mnemonic.text : Mnemonic → List Char
  | .nop => ['N', 'O', 'P']
  | .setn => ['S', 'E', 'T', 'N']
  | .setrows => ['S', 'E', 'T', 'R', 'O', 'W', 'S']
  | .setcols => ['S', 'E', 'T', 'C', 'O', 'L', 'S']
  | .setch => ['S', 'E', 'T', 'C', 'H']
  | .pixok => ['P', 'I', 'X', 'O', 'K']
  | .gen => ['G', 'E', 'N']
  | .luma => ['L', 'U', 'M', 'A']
  | .dither => ['D', 'I', 'T', 'H', 'E', 'R']
  | .invert => ['I', 'N', 'V', 'E', 'R', 'T']
  | .pack => ['P', 'A', 'C', 'K']
  | .convert => ['C', 'O', 'N', 'V', 'E', 'R', 'T']
  | .rst => ['R', 'S', 'T']

/-- The value of a decimal digit. -/
def decimalDigit? (c : Char) : Option Nat :=
  if '0' ≤ c ∧ c ≤ '9' then some (c.toNat - '0'.toNat) else none

/-- The value of a hexadecimal digit, either case (log entry 11). -/
def hexDigit? (c : Char) : Option Nat :=
  if 'a' ≤ c ∧ c ≤ 'f' then some (c.toNat - 'a'.toNat + 10)
  else if 'A' ≤ c ∧ c ≤ 'F' then some (c.toNat - 'A'.toNat + 10)
  else decimalDigit? c

/-- The digits read so far continued with the rest of a numeral. -/
def digitsFrom (base : Nat) (digit? : Char → Option Nat) : Nat → List Char → Option Nat
  | acc, [] => some acc
  | acc, c :: cs => (digit? c).bind fun d => digitsFrom base digit? (base * acc + d) cs

/-- An unsigned operand in decimal or `0x` hexadecimal (R51). -/
def operand? : List Char → Option Nat
  | [] => none
  | '0' :: 'x' :: c :: cs => digitsFrom 16 hexDigit? 0 (c :: cs)
  | c :: cs => digitsFrom 10 decimalDigit? 0 (c :: cs)

/-- A word read so far (its characters in reverse), as a list of at most one word. -/
def finishedWord (cur : List Char) : List (List Char) := if cur = [] then [] else [cur.reverse]

/-- The words of a line: separated by white space, a comma a word of its own, text from `;` on dropped (R51; log
entry 11). -/
def wordsFrom : List Char → List Char → List (List Char)
  | cur, [] => finishedWord cur
  | cur, c :: cs =>
    if c = ';' then finishedWord cur
    else if c = ' ' ∨ c = '\t' then finishedWord cur ++ wordsFrom [] cs
    else if c = ',' then finishedWord cur ++ [','] :: wordsFrom [] cs
    else wordsFrom (c :: cur) cs

/-- The words of a line, read as a command, a pseudo-command or a host action (R51, R52). DESIGN CHOICE (log entry 11):
the repetition that the spec's own listings write, `PIXW 0, 128 (24 times)`, which rule R51 does not define, is no form
of this reader; such a line is an assembly error, and the samples are written out instead. -/
def lineOfWords : List (List Char) → Option AsmLine
  | [] => some .empty
  | [['S', 'T', 'A', 'G', 'E', 'S']] => some .stages
  | [['S', 'E', 'T', 'D', 'I', 'M'], r, [','], c] =>
    (operand? r).bind fun r => (operand? c).map fun c => .setdim r c
  | [['R', 'E', 'G', 'R'], k] => (operand? k).map .regr
  | ['P', 'I', 'X', 'W'] :: addr :: [','] :: v :: vs =>
    (operand? addr).bind fun addr => ((v :: vs).mapM operand?).map fun vs => .pixw addr vs
  | [name] => (Mnemonic.all.find? fun m => Mnemonic.text m == name).map fun m => .command ⟨m, none⟩
  | [name, v] =>
    (Mnemonic.all.find? fun m => Mnemonic.text m == name).bind fun m =>
      (operand? v).map fun v => .command ⟨m, some v⟩
  | _ => none

/-- The host actions one line of a listing stands for, or none for an assembly error (R51, R52). -/
def assembleLine (line : List Char) : Option (List HostAction) :=
  (lineOfWords (wordsFrom [] line)).bind AsmLine.actions

/-- A whole listing, line by line (R51). -/
def assemble (lines : List (List Char)) : Option (List HostAction) :=
  (lines.mapM assembleLine).map List.flatten

/-! ### The text of a line -/

/-- A numeral in decimal (R51). -/
def decimal (n : Nat) : List Char := Nat.toDigits 10 n

/-- A numeral in `0x` hexadecimal (R51). -/
def hexadecimal (n : Nat) : List Char := '0' :: 'x' :: Nat.toDigits 16 n

/-- The text of a written command: its mnemonic in capitals, then its operand, if any, as a numeral (R51). -/
def writtenText (numeral : Nat → List Char) (c : WrittenCommand) : List Char :=
  Mnemonic.text c.mnemonic ++
    match c.operand with
    | none => []
    | some v => ' ' :: numeral v

end Sys2Proof.Machine
end

