-- ==== Sys2Proof/Safety.lean ====
section
/-! DEFINITION. What counts as a safe run of the block, in the terms the statements use: the host's actions that the
spec gives a meaning (R36), the configuration a conversion needs (R117), and the invariants of the state that the rules
of 10_state.md give. -/

namespace Sys2Proof.Machine

/-- The host actions rule R36 does not refuse: a PIX address below PIXCAP, a register number up to 15. -/
def HostAction.allowed (b : Build) : HostAction → Bool
  | .pixWrite addr _ => decide (addr < b.pixcap)
  | .pixRead addr => decide (addr < b.pixcap)
  | .regRead k => decide (k < 16)
  | .command _ => true
  | .resetInput => true

/-- The configuration under which CONVERT succeeds: a legal MSIZE (R63), the input declared available, three channels
and legal dimensions (R71, R117). -/
def State.readyToConvert (s : State) : Prop :=
  isValidN s.msize.toNat = true ∧ s.pixok = 1#1 ∧ s.ch = 3#8 ∧ s.dimensionsLegal = true

/-- PIX: canonical, and inside PIXCAP (R19, R36). -/
def State.pixInv (s : State) : Prop := Memory.wf s.pix = true ∧ ∀ cell ∈ s.pix, cell.1 < s.build.pixcap

/-- The pairs (ERR, ERRSTG) that rules R16, R17 and the table of R102 allow. -/
def legalFaultPairs : List (BitVec 3 × BitVec 3) :=
  [(0, 0), (1, 1), (2, 2), (2, 3), (2, 4), (2, 5), (3, 2), (4, 3), (4, 4), (4, 5), (5, 7)]

/-- ERR and ERRSTG hold a pair the table of rule R102 allows: codes 6 and 7 and stage 6 are never written (R16, R17). -/
def State.faultInv (s : State) : Prop := (s.err, s.errstg) ∈ legalFaultPairs

/-- A grid of exactly the given numbers of rows and columns. -/
def Grid.hasShape {w : Nat} (g : Grid w) (rows cols : Nat) : Prop := g.length = rows ∧ ∀ row ∈ g, row.length = cols

/-- BAYER: with BV = 1 a legal size and the matrix Gen(BN); with BV = 0 no element (R20, R32). -/
def State.bayerInv (s : State) : Prop :=
  if s.bayer.valid = 1#1 then
    isValidN s.bayer.size.toNat = true ∧ s.bayer.ranks = genGrid s.bayer.size.toNat
  else s.bayer.size = 0#16 ∧ s.bayer.ranks = []

/-- A grid memory: when valid, a legal tag and exactly the elements inside it; when not, an empty tag and no element
(R21 to R23, R29, R32, R71). -/
def Plane.inv {w : Nat} (b : Build) (p : Plane w) : Prop :=
  if p.valid = 1#1 then
    1 ≤ p.rows.toNat ∧ p.rows.toNat ≤ b.maxRows ∧ 1 ≤ p.cols.toNat ∧ p.cols.toNat ≤ b.maxCols ∧
      Grid.hasShape p.cells p.rows.toNat p.cols.toNat
  else p.rows = 0#16 ∧ p.cols = 0#16 ∧ p.cells = []

/-- Every luminance numerator is at most 2,549,745 (R21). -/
def State.lumRange (s : State) : Prop := ∀ row ∈ s.lum.cells, ∀ v ∈ row, v.toNat ≤ 2549745

/-- A grid has been produced only if the grids it was made from have (R76, R80). -/
def State.producedInOrder (s : State) : Prop :=
  (s.dbit.valid = 1#1 → s.lum.valid = 1#1 ∧ s.bayer.valid = 1#1) ∧ (s.sbit.valid = 1#1 → s.dbit.valid = 1#1)

/-- The grid memories are as rules R20 to R23 and R32 describe them. -/
def State.gridInv (s : State) : Prop :=
  s.bayerInv ∧ s.lum.inv s.build ∧ s.dbit.inv s.build ∧ s.sbit.inv s.build ∧ s.lumRange ∧ s.producedInOrder

/-- A frame as rule R26 describes it: its columns in emission order with their source columns, each with its groups
of the right number of bits, every value below 2^nbits (R84, R86, R91). -/
def Frame.inv (f : Frame) : Prop :=
  f.columns.map (fun c => (c.c, c.s, c.groups.map Group.nbits)) =
      (List.range f.width.toNat).map (fun c =>
        (c, src c f.width.toNat, (List.range (nGroups f.height.toNat)).map (groupBits f.height.toNat))) ∧
    ∀ c ∈ f.columns, ∀ g ∈ c.groups, 1 ≤ g.nbits ∧ g.nbits ≤ 8 ∧ g.value.toNat < 2 ^ g.nbits

/-- The histories: every frame of OUT well formed, TXT the text of OUT (R26, R27). -/
def State.historyInv (s : State) : Prop := (∀ f ∈ s.out, Frame.inv f) ∧ s.txt = textOf s.out

/-- The characters of the text output: the decimal digits, `a` to `f`, `x`, the comma and line feed (R54). -/
def textAlphabet : List Byte :=
  [0x30#8, 0x31#8, 0x32#8, 0x33#8, 0x34#8, 0x35#8, 0x36#8, 0x37#8, 0x38#8, 0x39#8, 0x61#8, 0x62#8, 0x63#8, 0x64#8,
    0x65#8, 0x66#8, 0x78#8, 0x2C#8, 0x0A#8]

/-- HEIGHT and WIDTH are their reset values or those of the last frame (R24, R29). -/
def State.sizeInv (s : State) : Prop :=
  (s.height = 0#16 ∧ s.width = 0#16) ∨ ∃ f, s.out.getLast? = some f ∧ s.height = f.height ∧ s.width = f.width

/-- Everything above together. -/
def State.Inv (s : State) : Prop := s.pixInv ∧ s.faultInv ∧ s.gridInv ∧ s.historyInv ∧ s.sizeInv

/-! ### The whole conversion, pixel by pixel

These say once, from the rules, what CONVERT's stored bits and frame are; the stages of the machine do not use them. -/

/-- The stored bit of pixel (i, j) of the pixel grid in PIX under matrix size `n`: 0 where the pixel's luminance is
above its tiled threshold, 1 where it is not (R72, R76, R77, R78, R80). -/
def State.pixelBit (s : State) (n i j : Nat) : Nat :=
  if above (lumNum (s.sample i j 0) (s.sample i j 1) (s.sample i j 2)) (genRank n (i % n) (j % n)) n then 0 else 1

/-- The value of group `k` of source column `col`: the bits of its rows, top row most significant (R86). -/
def State.pixelGroup (s : State) (n rows col k : Nat) : Nat :=
  ((List.range (groupBits rows k)).map fun t =>
    s.pixelBit n (8 * k + t) col * 2 ^ (groupBits rows k - 1 - t)).sum

/-- The frame a successful conversion of the pixel grid in PIX emits (R83 to R87, R91, R92). -/
def State.convertedFrame (s : State) : Frame where
  height := s.rows
  width := s.cols
  columns := (List.range s.cols.toNat).map fun c =>
    ⟨c, src c s.cols.toNat, (List.range (nGroups s.rows.toNat)).map fun k =>
      ⟨BitVec.ofNat 8 (s.pixelGroup s.msize.toNat s.rows.toNat (src c s.cols.toNat) k), groupBits s.rows.toNat k⟩⟩

end Sys2Proof.Machine
end

