-- ==== Sys2Proof/Certificates/Slice0/Obligations.lean ====
section
/-! DEFINITION. The statements for the provers: what spec/ says the commands, the faults, the host's actions and the
whole block do. Each names the rule it formalises. -/

open Sys2Proof Sys2Proof.Machine Host

/-! ### Encoding and dispatch -/

/-- Every command, with every immediate, is read back from its word (R46, R47, R48). -/
def Obligations.DecodeReadsBackEveryEncodedCommand : Prop :=
  ∀ i : Instr, i.wellFormed = true ∧ decode (encode i) = .ok i

/-- A word that decodes to a command is that command's word: no two words are one command (R47, R50). -/
def Obligations.DecodedCommandEncodesToItsWord : Prop :=
  ∀ (w : Word) (i : Instr), decode w = .ok i → encode i = w

/-- "a word w is the command exactly when (w & mask) = match; the masks of different rows select disjoint sets of
words" (R47). -/
def Obligations.CommandExactlyWhenMaskedWordMatches : Prop :=
  (∀ (w : Word) (m : Mnemonic), (∃ i, decode w = .ok i ∧ i.mnemonic = m) ↔ w &&& m.maskWord = m.matchWord) ∧
    ∀ (w : Word) (m m' : Mnemonic),
      w &&& m.maskWord = m.matchWord → w &&& m'.maskWord = m'.matchWord → m = m'

/-- Which words are illegal, by opcode ranges and must-be-zero fields; presented with ERR = 0 such a word raises
IllegalCommand in stage 7, otherwise it is discarded (R49); the rule's four examples are illegal. -/
def Obligations.IllegalWordsAreThoseOfTheRuleAndRaise : Prop :=
  (∀ w : Word, (∃ e, decode w = .error e) ↔
    let op := w.toNat / 2 ^ 24
    let field := w.toNat % 2 ^ 24
    (6 ≤ op ∧ op ≤ 0x0F) ∨ (0x15 ≤ op ∧ op ≤ 0x1E) ∨ (0x20 ≤ op ∧ op ≤ 0xFE) ∨
      (1 ≤ op ∧ op ≤ 3 ∧ field / 2 ^ 16 ≠ 0) ∨ (op = 4 ∧ field / 2 ^ 8 ≠ 0) ∨ (op = 5 ∧ field / 2 ≠ 0) ∨
      ((op = 0 ∨ (0x10 ≤ op ∧ op ≤ 0x14) ∨ op = 0x1F ∨ op = 0xFF) ∧ field ≠ 0)) ∧
    (∀ (s : State) (w : Word) (rest : List HostAction) (e : IllegalWord),
      s.input = .command w :: rest → decode w = .error e →
        (s.err = 0#3 → step s = .next { s with input := rest, err := 5#3, errstg := 7#3 }) ∧
          (s.err ≠ 0#3 → step s = .next { s with input := rest })) ∧
    ∀ w ∈ [0x06000000#32, 0x10000001#32, 0x01010010#32, 0x05000002#32], ∃ e, decode w = .error e

/-- A few words written out from the table of rule R47 decode to the commands they stand for. -/
def Obligations.WordsWrittenOutFromTheTableDecode : Prop :=
  decode 0x01000010#32 = .ok (.setn 16#16) ∧ decode 0x0200000A#32 = .ok (.setrows 10#16) ∧
    decode 0x03000003#32 = .ok (.setcols 3#16) ∧ decode 0x040000FF#32 = .ok (.setch 255#8) ∧
    decode 0x05000001#32 = .ok (.pixok 1#1) ∧ decode 0x12000000#32 = .ok .dither ∧
    decode 0x1F000000#32 = .ok .convert ∧ decode 0xFF000000#32 = .ok .rst

/-- A step whose next host action is a command that decodes to `i`, and that is not discarded, is `exec i` on the
state with the action taken off the host's sequence (R18, R40, R96); a word put there by `withFetchWord` runs so. The
host's sequence as a field of the state is the model's, log entry 4. -/
def Obligations.StepRunsTheDecodedCommand : Prop :=
  ∀ (s : State) (w : Word) (i : Instr), decode w = .ok i → (s.err = 0#3 ∨ i = .rst) →
    (∀ rest, s.input = .command w :: rest → step s = exec i { s with input := rest }) ∧
      step (s.withFetchWord 32 w.toNat) = exec i s

/-- Command dispatch (R96). -/
def Obligations.DispatchFollowsItsOrder : Prop :=
  ∀ (s : State) (w : Word) (rest : List HostAction), s.input = .command w :: rest →
    (w = 0xFF000000#32 → step s = exec .rst { s with input := rest }) ∧
      (w ≠ 0xFF000000#32 → s.err ≠ 0#3 → step s = .next { s with input := rest }) ∧
      (w ≠ 0xFF000000#32 → s.err = 0#3 →
        (∀ e, decode w = .error e → step s = .next { s with input := rest, err := 5#3, errstg := 7#3 }) ∧
          ∀ i, decode w = .ok i → step s = exec i { s with input := rest })

/-- A written command assembles to the HostCmd of its word; SETDIM and STAGES to their fixed sequences; an operand that
does not fit is an assembly error (R51, R52). The same of the text of a line, read by `assembleLine`, with operands in
decimal or hexadecimal and with or without a comment, of the host actions PIXW and REGR, and of a listing of one command
a line. That a PIXW address or a REGR number out of range assembles all the same is the model's choice, no rule of the
spec: ranges are not checked at assembly, and the access itself is refused (DESIGN CHOICE, log entries 11 and 6). -/
def Obligations.AssemblyOfCommandsAndPseudoCommands : Prop :=
  (∀ i : Instr, AsmLine.actions (.command i.written) = some [.command (encode i)]) ∧
    (∀ r c : Half, AsmLine.actions (.setdim r.toNat c.toNat) =
      some [.command (encode (.setrows r)), .command (encode (.setcols c))]) ∧
    AsmLine.actions .stages = some [.command 0x10000000#32, .command 0x11000000#32, .command 0x12000000#32,
      .command 0x13000000#32, .command 0x14000000#32] ∧
    (∀ c : WrittenCommand, c.wellFormed = false → AsmLine.actions (.command c) = none) ∧
    ∀ numeral ∈ [decimal, hexadecimal], ∀ tail : List Char, (tail = [] ∨ ∃ comment, tail = ';' :: comment) →
      (∀ i : Instr, assembleLine (writtenText numeral i.written ++ tail) = some [.command (encode i)]) ∧
        (∀ c : WrittenCommand, c.wellFormed = false → assembleLine (writtenText numeral c ++ tail) = none) ∧
        (∀ r c : Half,
          assembleLine (['S', 'E', 'T', 'D', 'I', 'M', ' '] ++ numeral r.toNat ++ [',', ' '] ++ numeral c.toNat ++ tail) =
            some [.command (encode (.setrows r)), .command (encode (.setcols c))]) ∧
        assembleLine (['S', 'T', 'A', 'G', 'E', 'S'] ++ tail) = some (stageCommands.map commandAction) ∧
        (∀ (addr : Nat) (v : Byte) (vs : List Byte),
          assembleLine (['P', 'I', 'X', 'W', ' '] ++ numeral addr ++ [','] ++
            (v :: vs).flatMap (fun u => ' ' :: numeral u.toNat) ++ tail) = some (pixWrites addr (v :: vs))) ∧
        (∀ k : Nat, assembleLine (['R', 'E', 'G', 'R', ' '] ++ numeral k ++ tail) = some [.regRead k]) ∧
        ∀ is : List Instr, assemble (is.map fun i => writtenText numeral i.written ++ tail) =
          some (is.map fun i => .command (encode i))

/-! ### Configuration commands -/

/-- NOP (R57): its word, and that it changes nothing, whether executed or discarded. -/
def Obligations.NopChangesNothing : Prop :=
  encode .nop = 0x00000000#32 ∧ (∀ s : State, exec .nop s = .next s) ∧
    ∀ (s : State) (rest : List HostAction), s.input = .command 0x00000000#32 :: rest →
      step s = .next { s with input := rest }

/-- SETN (R58): its word, its one register, no fault for any value; the illegal sizes of the rule succeed here and are
refused by GEN; a matrix of another size is reported by DITHER; SETN 16 after reset changes nothing. -/
def Obligations.SetnWritesMsizeUnchecked : Prop :=
  (∀ v : Half, encode (.setn v) = 0x01000000#32 ||| v.zeroExtend 32) ∧
    (∀ (v : Half) (s : State), exec (.setn v) s = .next { s with msize := v }) ∧
    (∀ v ∈ [0#16, 1#16, 6#16, 128#16, 65535#16], ∀ s : State,
      exec .gen { s with msize := v } = .next { s with msize := v, err := 1#3, errstg := 1#3 }) ∧
    (∀ (v : Half) (s : State), s.lum.valid = 1#1 → s.bayer.valid = 1#1 → s.lum.rows = s.rows → s.lum.cols = s.cols →
      s.bayer.size ≠ v → exec .dither { s with msize := v } = .next { s with msize := v, err := 2#3, errstg := 3#3 }) ∧
    ∀ b : Build, exec (.setn 16#16) (State.resetOf b) = .next (State.resetOf b)

/-- SETROWS and SETCOLS (R59, R60): their words and their one register; changing either between two stage commands
makes the next stage raise DimensionMismatch. -/
def Obligations.SetrowsSetcolsWriteTheDimensions : Prop :=
  (∀ (v : Half) (s : State), encode (.setrows v) = 0x02000000#32 ||| v.zeroExtend 32 ∧
    exec (.setrows v) s = .next { s with rows := v }) ∧
    (∀ (v : Half) (s : State), encode (.setcols v) = 0x03000000#32 ||| v.zeroExtend 32 ∧
      exec (.setcols v) s = .next { s with cols := v }) ∧
    ∀ (r c : Half) (s : State),
      (s.lum.valid = 1#1 → s.bayer.valid = 1#1 → s.lum.rows ≠ r ∨ s.lum.cols ≠ c →
        exec .dither { s with rows := r, cols := c } =
          .next { s with rows := r, cols := c, err := 2#3, errstg := 3#3 }) ∧
        (s.dbit.valid = 1#1 → s.dbit.rows ≠ r ∨ s.dbit.cols ≠ c →
          exec .invert { s with rows := r, cols := c } =
            .next { s with rows := r, cols := c, err := 2#3, errstg := 4#3 }) ∧
        (s.sbit.valid = 1#1 → s.sbit.rows ≠ r ∨ s.sbit.cols ≠ c →
          exec .pack { s with rows := r, cols := c } =
            .next { s with rows := r, cols := c, err := 2#3, errstg := 5#3 })

/-- SETCH and PIXOK (R61, R62): their words and their one register; a channel count other than 3 makes the next LUMA
raise DimensionMismatch where the input is declared available. -/
def Obligations.SetchPixokWriteTheirRegister : Prop :=
  (∀ (v : Byte) (s : State), encode (.setch v) = 0x04000000#32 ||| v.zeroExtend 32 ∧
    exec (.setch v) s = .next { s with ch := v }) ∧
    (∀ (v : Bit) (s : State), encode (.pixok v) = 0x05000000#32 ||| v.zeroExtend 32 ∧
      exec (.pixok v) s = .next { s with pixok := v }) ∧
    ∀ (v : Byte) (s : State), v ≠ 3#8 → s.pixok = 1#1 →
      exec .luma { s with ch := v } = .next { s with ch := v, err := 2#3, errstg := 2#3 }

/-! ### GEN -/

/-- GEN (R63): its word; with a legal MSIZE, BAYER holds Gen(MSIZE), BN = MSIZE, BV = 1 and nothing else changes;
otherwise InvalidParameter in stage 1 and nothing else; GEN again on the matrix it made changes nothing. -/
def Obligations.GenBuildsTheMatrixOrFaults : Prop :=
  encode .gen = 0x10000000#32 ∧ (∀ s : State, isValidN s.msize.toNat = true →
    exec .gen s = .next { s with bayer := ⟨1#1, s.msize, genGrid s.msize.toNat⟩ } ∧
      ∀ t, exec .gen s = .next t → ∀ a < s.msize.toNat, ∀ b < s.msize.toNat,
        (t.bayerAt a b).toNat = genRank s.msize.toNat a b) ∧
    (∀ s : State, isValidN s.msize.toNat = false → exec .gen s = .next { s with err := 1#3, errstg := 1#3 }) ∧
    ∀ s : State, s.bayerInv → s.bayer.valid = 1#1 → s.bayer.size = s.msize → exec .gen s = .next s

/-- The legal sizes are the powers of two from 2 to 64, with the rule's verdicts; GEN refuses a size above 64 with
InvalidParameter (R64). -/
def Obligations.LegalSizesArePowersOfTwoUpTo64 : Prop :=
  (∀ n : Nat, isValidN n = true ↔ (∃ k, n = 2 ^ k) ∧ 2 ≤ n ∧ n ≤ 64) ∧
    [0, 1, 2, 3, 6, 12, 16, 64, 128, 65535].map isValidN =
      [false, false, true, false, false, false, true, true, false, false] ∧
    ∀ s : State, 64 < s.msize.toNat → exec .gen s = .next { s with err := 1#3, errstg := 1#3 }

/-- The recursion of the matrix: base and four quadrants (R65). -/
def Obligations.MatrixRecursionByQuadrants : Prop :=
  (genRank 2 0 0 = 0 ∧ genRank 2 0 1 = 2 ∧ genRank 2 1 0 = 3 ∧ genRank 2 1 1 = 1) ∧
    ∀ n, isValidN n = true → 4 ≤ n → ∀ a < n / 2, ∀ b < n / 2,
      genRank n a b = 4 * genRank (n / 2) a b ∧
        genRank n a (b + n / 2) = 4 * genRank (n / 2) a b + 2 ∧
        genRank n (a + n / 2) b = 4 * genRank (n / 2) a b + 3 ∧
        genRank n (a + n / 2) (b + n / 2) = 4 * genRank (n / 2) a b + 1

/-- The closed form: the rank is the bit-reversed interleaving of a XOR b and a (R66). -/
def Obligations.MatrixClosedForm : Prop :=
  ∀ n, isValidN n = true → ∀ a < n, ∀ b < n,
    genRank n a b =
      ((List.range n.log2).map fun k =>
        (2 * ((a.testBit k ^^ b.testBit k).toNat) + (a.testBit k).toNat) * 4 ^ (n.log2 - 1 - k)).sum

/-- Bijection, quadrant identity and corners of Gen(n) (R67). -/
def Obligations.MatrixIsAPermutationWithItsCorners : Prop :=
  ∀ n, isValidN n = true →
    (∀ a < n, ∀ b < n, genRank n a b < n ^ 2) ∧
      (∀ g < n ^ 2, ∃! p : Nat × Nat, p.1 < n ∧ p.2 < n ∧ genRank n p.1 p.2 = g) ∧
      (4 ≤ n → ∀ a < n / 2, ∀ b < n / 2,
        genRank n (a + n / 2) (b + n / 2) = 4 * genRank (n / 2) a b + 1 ∧
          genRank n a (b + n / 2) = 4 * genRank (n / 2) a b + 2 ∧
          genRank n (a + n / 2) b = 4 * genRank (n / 2) a b + 3 ∧ genRank n a b = 4 * genRank (n / 2) a b) ∧
      genRank n 0 0 = 0 ∧ genRank n (n - 1) 0 = n ^ 2 - 1

/-- Thresholds lie strictly between 0 and 255, are symmetric, and have the rule's smallest and largest values
(R69). -/
def Obligations.ThresholdsLieStrictlyInside : Prop :=
  ∀ n, isValidN n = true →
    (∀ g < n ^ 2, 0 < thr g n ∧ thr g n < 255 ∧ thr 0 n ≤ thr g n ∧ thr g n ≤ thr (n ^ 2 - 1) n ∧
      thr g n + thr (n ^ 2 - 1 - g) n = 255) ∧
      thr 0 n = 255 / (1 + (n : ℚ) ^ 2) ∧ thr (n ^ 2 - 1) n = 255 * (n : ℚ) ^ 2 / (1 + (n : ℚ) ^ 2)

/-! ### LUMA -/

/-- LUMA (R71): its word, its three checks in order, and on success LUM[i][j] = LumNum of the three samples at
PixAddr, the tag, the flag, and nothing else. -/
def Obligations.LumaChecksThenReducesEveryPixel : Prop :=
  encode .luma = 0x11000000#32 ∧ ∀ s : State,
    (s.pixok = 0#1 → exec .luma s = .next { s with err := 3#3, errstg := 2#3 }) ∧
      (s.pixok = 1#1 → s.ch ≠ 3#8 → exec .luma s = .next { s with err := 2#3, errstg := 2#3 }) ∧
      (s.pixok = 1#1 → s.ch = 3#8 →
        s.rows = 0#16 ∨ s.build.maxRows < s.rows.toNat ∨ s.cols = 0#16 ∨ s.build.maxCols < s.cols.toNat →
        exec .luma s = .next { s with err := 2#3, errstg := 2#3 }) ∧
      (s.pixok = 1#1 → s.ch = 3#8 → 1 ≤ s.rows.toNat → s.rows.toNat ≤ s.build.maxRows → 1 ≤ s.cols.toNat →
        s.cols.toNat ≤ s.build.maxCols →
        ∃ t, exec .luma s = .next t ∧ t = { s with lum := ⟨1#1, s.rows, s.cols, t.lum.cells⟩ } ∧
          Grid.hasShape t.lum.cells s.rows.toNat s.cols.toNat ∧
          ∀ i < s.rows.toNat, ∀ j < s.cols.toNat, (t.lumAt i j).toNat =
            lumNum (s.pixByte (3 * (i * s.cols.toNat + j) + 0)).toNat
              (s.pixByte (3 * (i * s.cols.toNat + j) + 1)).toNat (s.pixByte (3 * (i * s.cols.toNat + j) + 2)).toNat)

/-- The luminance numerator: its formula, its range, black and white (R72). -/
def Obligations.LumNumFormulaAndRange : Prop :=
  (∀ r g b : Nat, lumNum r g b = 2989 * r + 5870 * g + 1140 * b ∧ (lumNum r g b : ℚ) / 10000 =
    2989 / 10000 * r + 5870 / 10000 * g + 1140 / 10000 * b) ∧
    (∀ r ≤ 255, ∀ g ≤ 255, ∀ b ≤ 255, lumNum r g b ≤ 2549745) ∧
    lumNum 0 0 0 = 0 ∧ lumNum 255 255 255 = 2549745

/-- Same dimensions, linearity, monotonicity, gray pixels (R74). -/
def Obligations.LumaKeepsDimensionsIsLinearAndMonotone : Prop :=
  (∀ s t : State, exec .luma s = .next t → t.err = s.err → t.errstg = s.errstg → s.err = 0#3 →
    t.lum.rows = s.rows ∧ t.lum.cols = s.cols) ∧
    (∀ k r g b : Nat, lumNum (k * r) (k * g) (k * b) = k * lumNum r g b) ∧
    (∀ r g b d : Nat, 0 < d → lumNum r g b < lumNum (r + d) g b ∧ lumNum r g b < lumNum r (g + d) b ∧
      lumNum r g b < lumNum r g (b + d)) ∧
    ∀ v : Nat, lumNum v v v = 9999 * v

/-- Under legal dimensions every sample address is below PIXCAP and at most 3·ROWS·COLS − 1, that address is used, and
different samples have different addresses (R31, R36). -/
def Obligations.SampleAddressesStayInsidePix : Prop :=
  ∀ s : State, s.dimensionsLegal = true →
    3 * s.rows.toNat * s.cols.toNat ≤ s.build.pixcap ∧
      pixAddr s.cols.toNat (s.rows.toNat - 1) (s.cols.toNat - 1) 2 = 3 * s.rows.toNat * s.cols.toNat - 1 ∧
      ∀ i < s.rows.toNat, ∀ j < s.cols.toNat, ∀ k < 3,
        pixAddr s.cols.toNat i j k < 3 * s.rows.toNat * s.cols.toNat ∧
          ∀ i' < s.rows.toNat, ∀ j' < s.cols.toNat, ∀ k' < 3,
            pixAddr s.cols.toNat i j k = pixAddr s.cols.toNat i' j' k' → i = i' ∧ j = j' ∧ k = k'

/-- LUMA reads no byte of PIX at or above 3·ROWS·COLS (R31): with other contents there it does the same. -/
def Obligations.LumaReadsNoByteBeyondTheGrid : Prop :=
  ∀ (s t : State) (m : Memory),
    (∀ a < 3 * s.rows.toNat * s.cols.toNat, State.pixByte { s with pix := m } a = s.pixByte a) →
    exec .luma s = .next t → exec .luma { s with pix := m } = .next { t with pix := m }

/-! ### DITHER and INVERT -/

/-- DITHER (R76): its word, its three checks in order, and on success DBIT[i][j] = 1 exactly when LUM[i][j] is above
the matrix entry at (i mod BN, j mod BN), the tag, the flag, and nothing else. -/
def Obligations.DitherChecksThenDecidesEveryPixel : Prop :=
  encode .dither = 0x12000000#32 ∧ ∀ s : State,
    (s.lum.valid = 0#1 ∨ s.bayer.valid = 0#1 → exec .dither s = .next { s with err := 4#3, errstg := 3#3 }) ∧
      (s.lum.valid = 1#1 → s.bayer.valid = 1#1 → s.lum.rows ≠ s.rows ∨ s.lum.cols ≠ s.cols →
        exec .dither s = .next { s with err := 2#3, errstg := 3#3 }) ∧
      (s.lum.valid = 1#1 → s.bayer.valid = 1#1 → s.lum.rows = s.rows → s.lum.cols = s.cols →
        s.bayer.size ≠ s.msize → exec .dither s = .next { s with err := 2#3, errstg := 3#3 }) ∧
      (s.lum.valid = 1#1 → s.bayer.valid = 1#1 → s.lum.rows = s.rows → s.lum.cols = s.cols →
        s.bayer.size = s.msize →
        ∃ t, exec .dither s = .next t ∧ t = { s with dbit := ⟨1#1, s.lum.rows, s.lum.cols, t.dbit.cells⟩ } ∧
          Grid.hasShape t.dbit.cells s.lum.rows.toNat s.lum.cols.toNat ∧
          ∀ i < s.lum.rows.toNat, ∀ j < s.lum.cols.toNat,
            (t.dbitAt i j = 1#1 ↔
              (s.lumAt i j).toNat * (1 + s.bayer.size.toNat ^ 2) >
                2550000 * (1 + (s.bayerAt (i % s.bayer.size.toNat) (j % s.bayer.size.toNat)).toNat)))

/-- The integer comparison is the exact rational one: S / 10000 > Thr(g, n) (R77). -/
def Obligations.AboveIsTheExactRationalComparison : Prop :=
  ∀ S g n : Nat,
    (above S g n = true ↔ S * (1 + n ^ 2) > 2550000 * (1 + g)) ∧
      (above S g n = true ↔ (S : ℚ) / 10000 > thr g n)

/-- A pixel whose luminance equals its threshold is not above it; for size 16 equality never happens; for each other
legal size it does (R79). -/
def Obligations.TiesAreNotAboveAndSize16HasNone : Prop :=
  (∀ S g n : Nat, (S : ℚ) / 10000 = thr g n → above S g n = false) ∧
    (∀ S g : Nat, g < 256 → (S : ℚ) / 10000 ≠ thr g 16) ∧
    ∀ n, isValidN n = true → n ≠ 16 → ∃ r ≤ 255, ∃ g ≤ 255, ∃ b ≤ 255, ∃ rank < n ^ 2,
      (lumNum r g b : ℚ) / 10000 = thr rank n

/-- INVERT (R80): its word, its two checks in order, and on success SBIT[i][j] = 1 − DBIT[i][j], the tag, the flag,
DBIT and everything else unchanged; INVERT again writes the same. -/
def Obligations.InvertStoresTheComplementOfEachDecision : Prop :=
  encode .invert = 0x13000000#32 ∧ ∀ s : State,
    (s.dbit.valid = 0#1 → exec .invert s = .next { s with err := 4#3, errstg := 4#3 }) ∧
      (s.dbit.valid = 1#1 → s.dbit.rows ≠ s.rows ∨ s.dbit.cols ≠ s.cols →
        exec .invert s = .next { s with err := 2#3, errstg := 4#3 }) ∧
      (s.dbit.valid = 1#1 → s.dbit.rows = s.rows → s.dbit.cols = s.cols →
        ∃ t, exec .invert s = .next t ∧ t = { s with sbit := ⟨1#1, s.dbit.rows, s.dbit.cols, t.sbit.cells⟩ } ∧
          Grid.hasShape t.sbit.cells s.dbit.rows.toNat s.dbit.cols.toNat ∧
          (∀ i < s.dbit.rows.toNat, ∀ j < s.dbit.cols.toNat, (t.sbitAt i j).toNat = 1 - (s.dbitAt i j).toNat) ∧
          exec .invert t = .next t)

/-- Same dimensions; monotonicity: under one matrix a pixel of higher luminance never has its dither decision flipped
from 1 to 0, nor its stored bit from 0 to 1; white and black pixels, of the comparison and of both bits (R81). -/
def Obligations.DitherIsMonotoneWhiteAndBlackAreFixed : Prop :=
  (∀ s t : State, s.err = 0#3 → t.err = 0#3 →
    (exec .dither s = .next t → t.dbit.rows = s.lum.rows ∧ t.dbit.cols = s.lum.cols) ∧
      (exec .invert s = .next t → t.sbit.rows = s.dbit.rows ∧ t.sbit.cols = s.dbit.cols)) ∧
    (∀ S S' g n : Nat, S ≤ S' → above S g n = true → above S' g n = true) ∧
    (∀ n, isValidN n = true → ∀ g < n ^ 2,
      above (lumNum 255 255 255) g n = true ∧ above (lumNum 0 0 0) g n = false) ∧
    (∀ s s' t t' u u' : State, s.err = 0#3 → s'.err = 0#3 → u.err = 0#3 → u'.err = 0#3 → s.bayer = s'.bayer →
      exec .dither s = .next t → exec .invert t = .next u → exec .dither s' = .next t' → exec .invert t' = .next u' →
      t.err = 0#3 → t'.err = 0#3 →
      ∀ i j, i < s.lum.rows.toNat → j < s.lum.cols.toNat → i < s'.lum.rows.toNat → j < s'.lum.cols.toNat →
        (s.lumAt i j).toNat ≤ (s'.lumAt i j).toNat →
        (t.dbitAt i j = 1#1 → t'.dbitAt i j = 1#1) ∧ (u.sbitAt i j = 0#1 → u'.sbitAt i j = 0#1)) ∧
    ∀ s t u : State, s.bayerInv → s.err = 0#3 → t.err = 0#3 → u.err = 0#3 →
      exec .dither s = .next t → exec .invert t = .next u →
      ∀ i < s.lum.rows.toNat, ∀ j < s.lum.cols.toNat,
        ((s.lumAt i j).toNat = lumNum 255 255 255 → t.dbitAt i j = 1#1 ∧ u.sbitAt i j = 0#1) ∧
          ((s.lumAt i j).toNat = lumNum 0 0 0 → t.dbitAt i j = 0#1 ∧ u.sbitAt i j = 1#1)

/-! ### PACK -/

/-- PACK (R83): its word, its two checks in order, both before the first emission; on success one whole frame and its
text, HEIGHT, WIDTH and nothing else; PACK again emits the same frame. -/
def Obligations.PackEmitsOneWholeFrame : Prop :=
  encode .pack = 0x14000000#32 ∧ ∀ s : State,
    (s.sbit.valid = 0#1 → exec .pack s = .next { s with err := 4#3, errstg := 5#3 }) ∧
      (s.sbit.valid = 1#1 → s.sbit.rows ≠ s.rows ∨ s.sbit.cols ≠ s.cols →
        exec .pack s = .next { s with err := 2#3, errstg := 5#3 }) ∧
      (s.sbit.valid = 1#1 → s.sbit.rows = s.rows → s.sbit.cols = s.cols →
        ∃ f : Frame, f.height = s.rows ∧ f.width = s.cols ∧ Frame.inv f ∧
          f.columns.map (fun c => c.groups.map fun g => g.value.toNat) =
            (List.range s.cols.toNat).map (fun c => (List.range (nGroups s.rows.toNat)).map fun k =>
              s.groupVal (src c s.cols.toNat) k) ∧
          (let t := { s with height := s.rows, width := s.cols, out := s.out ++ [f], txt := s.txt ++ f.text }
           exec .pack s = .next t ∧
             exec .pack t = .next { t with out := t.out ++ [f], txt := t.txt ++ f.text }))

/-- The emission order: column 0, then cols − 1 down to 1, every column once (R84). -/
def Obligations.ColumnOrderIsZeroThenDescending : Prop :=
  ∀ cols, 1 ≤ cols →
    (List.range cols).map (fun c => src c cols) = 0 :: ((List.range (cols - 1)).map fun k => cols - 1 - k) ∧
      (∀ c < cols, src c cols < cols ∧ src (src c cols) cols = c ∧ src c cols = (cols - c) % cols) ∧
      ∀ s < cols, ∃! c, c < cols ∧ src c cols = s

/-- Groups: how many, how many bits each, their rows in order without gap, and each row's bit at its place in the
value, top row most significant (R86, R87). -/
def Obligations.GroupValueHoldsTheRowsTopFirst : Prop :=
  (∀ rows, nGroups rows * 8 < rows + 8 ∧ rows ≤ nGroups rows * 8) ∧
    (∀ rows k, k < nGroups rows → 1 ≤ groupBits rows k ∧ groupBits rows k ≤ 8 ∧ 8 * k + groupBits rows k ≤ rows ∧
      (k + 1 < nGroups rows → groupBits rows k = 8) ∧
      (k + 1 = nGroups rows → rows = 8 * k + groupBits rows k ∧
        (rows % 8 ≠ 0 → groupBits rows k = rows % 8))) ∧
    ∀ (s : State) (col k : Nat), k < nGroups s.sbit.rows.toNat →
      s.groupVal col k < 2 ^ groupBits s.sbit.rows.toNat k ∧
        ∀ t < groupBits s.sbit.rows.toNat k,
          (s.groupVal col k).testBit (groupBits s.sbit.rows.toNat k - 1 - t) = ((s.sbitAt (8 * k + t) col) == 1#1)

/-- The literal of a byte: `0x` and the hexadecimal digits without leading zeros, three or four characters, different
for different values (R88). -/
def Obligations.LiteralIsMinimalLowercaseHex : Prop :=
  ∀ v < 256,
    hexLit v = [0x30#8, 0x78#8] ++
        (if v = 0 then [0x30#8] else ((Nat.digits 16 v).reverse.map fun d =>
          BitVec.ofNat 8 (if d ≤ 9 then 0x30 + d else 0x61 + d - 10))) ∧
      ((hexLit v).length = 3 ∨ (hexLit v).length = 4) ∧ ∀ u < 256, hexLit u = hexLit v → u = v

/-- The text of the frame PACK emits: one line of literals per column in emission order, so WIDTH line ends,
WIDTH · ceil(HEIGHT / 8) literals, and separators only between the literals of a line (R89, R90, R92). -/
def Obligations.PackedTextHasOneLinePerColumn : Prop :=
  ∀ s : State, s.sbit.valid = 1#1 → s.sbit.rows = s.rows → s.sbit.cols = s.cols →
    ∃ t x, exec .pack s = .next t ∧ t.txt = s.txt ++ x ∧
      x = (List.range s.cols.toNat).flatMap (fun c => s.line (src c s.cols.toNat)) ∧
      x.count 0x0A#8 = s.cols.toNat ∧ x.count 0x78#8 = s.cols.toNat * nGroups s.rows.toNat ∧
      x.count 0x2C#8 = s.cols.toNat * (nGroups s.rows.toNat - 1)

/-- The record stream of a frame: its items, and each item as a number, kind in bits 33:32 and its fields below, where
the emission positions and source columns are below 65536 and the groups have at most 8 bits (R53). -/
def Obligations.RecordStreamItemsHaveTheirFields : Prop :=
  (∀ f : Frame, f.items = (0#2 ++ (f.height ++ f.width : Word)) ::
    (f.columns.flatMap (fun c => (1#2 ++ (BitVec.ofNat 16 c.c ++ BitVec.ofNat 16 c.s : Word)) ::
      c.groups.map Group.item) ++ [3#2 ++ 0#32])) ∧
    (∀ f : Frame, (∀ c ∈ f.columns, c.c < 65536 ∧ c.s < 65536 ∧ ∀ g ∈ c.groups, g.nbits ≤ 8) →
      f.items.map (fun item => item.toNat) =
        (0 * 2 ^ 32 + f.height.toNat * 2 ^ 16 + f.width.toNat) ::
          (f.columns.flatMap (fun c => (1 * 2 ^ 32 + c.c * 2 ^ 16 + c.s) ::
            c.groups.map fun g => 2 * 2 ^ 32 + g.nbits * 2 ^ 8 + g.value.toNat) ++ [3 * 2 ^ 32])) ∧
    (∀ f : Frame, f.inv → ∀ c ∈ f.columns, c.c < 65536 ∧ c.s < 65536 ∧ ∀ g ∈ c.groups, g.nbits ≤ 8) ∧
    (∀ f : Frame, f.inv → f.items.length = 2 + f.width.toNat * (1 + nGroups f.height.toNat)) ∧
    ∀ g : Group, g.nbits ≤ 8 → g.item.toNat = 2 * 2 ^ 32 + g.nbits * 2 ^ 8 + g.value.toNat

/-! ### CONVERT and RST -/

/-- A conversion that is ready ends with exactly one frame more, computed pixel by pixel from PIX, its text, the size
registers, all four grids valid under the dimensions, and nothing else changed (R92, R98). -/
def Obligations.ConvertComputesTheFrameOfThePixelGrid : Prop :=
  ∀ s : State, s.readyToConvert →
    ∃ t, exec .convert s = .next t ∧
      t = { s with
        bayer := ⟨1#1, s.msize, genGrid s.msize.toNat⟩
        lum := ⟨1#1, s.rows, s.cols, t.lum.cells⟩
        dbit := ⟨1#1, s.rows, s.cols, t.dbit.cells⟩
        sbit := ⟨1#1, s.rows, s.cols, t.sbit.cells⟩
        height := s.rows
        width := s.cols
        out := s.out ++ [s.convertedFrame]
        txt := s.txt ++ s.convertedFrame.text } ∧
      ∀ i < s.rows.toNat, ∀ j < s.cols.toNat,
        (t.lumAt i j).toNat = lumNum (s.sample i j 0) (s.sample i j 1) (s.sample i j 2) ∧
          (t.sbitAt i j).toNat = s.pixelBit s.msize.toNat i j ∧
          (t.dbitAt i j).toNat = 1 - s.pixelBit s.msize.toNat i j

/-- A conversion that is not ready ends with exactly one of the three faults, in the order of the stages and of LUMA's
checks; GEN's matrix stays where LUMA raised; nothing is emitted (R98, R109). -/
def Obligations.ConvertFaultsOnlyInGenAndLuma : Prop :=
  ∀ s : State,
    (isValidN s.msize.toNat = false → exec .convert s = .next { s with err := 1#3, errstg := 1#3 }) ∧
      (isValidN s.msize.toNat = true → s.pixok = 0#1 → exec .convert s = .next { s with
        bayer := ⟨1#1, s.msize, genGrid s.msize.toNat⟩, err := 3#3, errstg := 2#3 }) ∧
      (isValidN s.msize.toNat = true → s.pixok = 1#1 → s.ch ≠ 3#8 ∨ s.dimensionsLegal = false →
        exec .convert s = .next { s with
          bayer := ⟨1#1, s.msize, genGrid s.msize.toNat⟩, err := 2#3, errstg := 2#3 })

/-- CONVERT leaves exactly the state and histories that GEN, LUMA, DITHER, INVERT, PACK issued one after another leave,
whether they succeed or fault (R52, R98). -/
def Obligations.ConvertEqualsTheFiveStageCommands : Prop :=
  ∀ (s : State) (rest : List HostAction), s.err = 0#3 →
    step { s with input := .command (encode .convert) :: rest } =
      Host.Core.run Sys2Proof.core 5 { s with input := stageCommands.map commandAction ++ rest }

/-- RST (R99): every register and flag to its reset value, PIX, OUT and TXT kept, no fault whatever ERR holds; in the
reset state it changes nothing. -/
def Obligations.RstReturnsToTheResetState : Prop :=
  (encode .rst = 0xFF000000#32) ∧
    (∀ s : State, ∃ t, exec .rst s = .next t ∧
      t = { s with
        msize := 16#16, rows := 0#16, cols := 0#16, ch := 3#8, pixok := 0#1, err := 0#3, errstg := 0#3
        bayer := ⟨0#1, 0#16, t.bayer.ranks⟩, lum := ⟨0#1, 0#16, 0#16, t.lum.cells⟩
        dbit := ⟨0#1, 0#16, 0#16, t.dbit.cells⟩, sbit := ⟨0#1, 0#16, 0#16, t.sbit.cells⟩
        height := 0#16, width := 0#16 }) ∧
    ∀ b : Build, exec .rst (State.resetOf b) = .next (State.resetOf b)

/-- The reset input gives the power-on reset state of rule R29 (R114), from any state; what the block keeps through RST
and loses through the reset input is PIX, OUT and TXT (R115). The contents of the four invalid grid memories, which R29
leaves unspecified, are not compared. The model's own fields go on (log
entries 1, 2, 4, 5, 13). -/
def Obligations.ResetInputGivesThePowerOnState : Prop :=
  (∀ (s : State) (rest : List HostAction), s.input = .resetInput :: rest → ∃ t, step s = .next t ∧
    t.msize = 16#16 ∧ t.rows = 0#16 ∧ t.cols = 0#16 ∧ t.ch = 3#8 ∧ t.pixok = 0#1 ∧ t.err = 0#3 ∧ t.errstg = 0#3 ∧
      t.bayer.valid = 0#1 ∧ t.bayer.size = 0#16 ∧ t.lum.valid = 0#1 ∧ t.lum.rows = 0#16 ∧ t.lum.cols = 0#16 ∧
      t.dbit.valid = 0#1 ∧ t.dbit.rows = 0#16 ∧ t.dbit.cols = 0#16 ∧ t.sbit.valid = 0#1 ∧ t.sbit.rows = 0#16 ∧
      t.sbit.cols = 0#16 ∧ t.height = 0#16 ∧ t.width = 0#16 ∧ t.out = [] ∧ t.txt = [] ∧
      t.build = s.build ∧ t.input = rest ∧ t.replies = s.replies ∧
      ∃ u, exec .rst { s with input := rest } = .next u ∧
        u = { t with
          pix := s.pix, out := s.out, txt := s.txt, powerOns := s.powerOns
          bayer := { t.bayer with ranks := u.bayer.ranks }, lum := { t.lum with cells := u.lum.cells }
          dbit := { t.dbit with cells := u.dbit.cells }, sbit := { t.sbit with cells := u.sbit.cells } })

/-! ### Faults -/

/-- A fault is precise: a stage command or an illegal word that raises changes ERR and ERRSTG and nothing else
(R106). -/
def Obligations.FaultsChangeOnlyErrAndErrstg : Prop :=
  (∀ i ∈ stageCommands, ∀ s t : State, exec i s = .next t →
    (t.err = s.err ∧ t.errstg = s.errstg) ∨ ∃ r : Raise, t = { s with err := r.kind.code, errstg := r.stage.number }) ∧
    ∀ (s : State) (w : Word) (e : IllegalWord), decode w = .error e → s.err = 0#3 →
      present w s = .next { s with err := 5#3, errstg := 7#3 }

/-- No partial output: a command that ends with a fault, CONVERT included, leaves OUT, TXT, PIX, the size registers
HEIGHT and WIDTH and every configuration register as they were (R106). BN and the valid flags are not among them: a
CONVERT that faults in LUMA keeps GEN's matrix (R98). -/
def Obligations.NoPartialOutputOnAFault : Prop :=
  ∀ (w : Word) (s t : State), s.err = 0#3 → present w s = .next t → t.err ≠ 0#3 →
    t.out = s.out ∧ t.txt = s.txt ∧ t.height = s.height ∧ t.width = s.width ∧ t.msize = s.msize ∧
      t.rows = s.rows ∧ t.cols = s.cols ∧ t.ch = s.ch ∧ t.pixok = s.pixok ∧ t.pix = s.pix

/-- Which command ends with which fault in which stage, exactly, one fault at most, in the order of rule R109: a recorded
fault discards the word, then decoding, then the checks of the stages (R103, R104, R105, R107, R108, R109). -/
def Obligations.EachFaultHasExactlyItsCauses : Prop :=
  (∀ (i : Instr) (s t : State), s.err = 0#3 → exec i s = .next t →
    (t.err = 1#3 ↔ (i = .gen ∨ i = .convert) ∧ isValidN s.msize.toNat = false) ∧
      (t.err = 3#3 ↔ (i = .luma ∨ (i = .convert ∧ isValidN s.msize.toNat = true)) ∧ s.pixok = 0#1) ∧
      (t.err = 4#3 ↔ (i = .dither ∧ (s.lum.valid = 0#1 ∨ s.bayer.valid = 0#1)) ∨
        (i = .invert ∧ s.dbit.valid = 0#1) ∨ (i = .pack ∧ s.sbit.valid = 0#1)) ∧
      (t.err = 2#3 ↔
        ((i = .luma ∨ (i = .convert ∧ isValidN s.msize.toNat = true)) ∧ s.pixok = 1#1 ∧
          (s.ch ≠ 3#8 ∨ s.dimensionsLegal = false)) ∨
        (i = .dither ∧ s.lum.valid = 1#1 ∧ s.bayer.valid = 1#1 ∧
          (s.lum.rows ≠ s.rows ∨ s.lum.cols ≠ s.cols ∨ s.bayer.size ≠ s.msize)) ∨
        (i = .invert ∧ s.dbit.valid = 1#1 ∧ (s.dbit.rows ≠ s.rows ∨ s.dbit.cols ≠ s.cols)) ∨
        (i = .pack ∧ s.sbit.valid = 1#1 ∧ (s.sbit.rows ≠ s.rows ∨ s.sbit.cols ≠ s.cols))) ∧
      t.err ≠ 5#3 ∧ t.err ≠ 6#3 ∧ t.err ≠ 7#3 ∧ (t.err = 1#3 → t.errstg = 1#3) ∧
      (t.err ≠ 0#3 → t.err ≠ 1#3 →
        ((i = .luma ∨ i = .convert) ∧ t.errstg = 2#3) ∨ (i = .dither ∧ t.errstg = 3#3) ∨
          (i = .invert ∧ t.errstg = 4#3) ∨ (i = .pack ∧ t.errstg = 5#3))) ∧
    ∀ (w : Word) (s t : State), present w s = .next t →
      (w ≠ 0xFF000000#32 → s.err ≠ 0#3 → t = s) ∧
        (s.err = 0#3 → (t.err = 5#3 ↔ ∃ e, decode w = .error e) ∧ (t.err = 5#3 → t.errstg = 7#3) ∧
          ∀ i, decode w = .ok i → exec i s = .next t)

/-- A recorded fault stays until RST or the reset input (R16, R96, R110): every other step keeps ERR and ERRSTG and
emits nothing. -/
def Obligations.RecordedFaultStaysUntilReset : Prop :=
  ∀ s t : State, s.err ≠ 0#3 → s.input.head? ≠ some (.command 0xFF000000#32) → s.input.head? ≠ some .resetInput →
    step s = .next t → t.err = s.err ∧ t.errstg = s.errstg ∧ t.out = s.out ∧ t.txt = s.txt

/-! ### The host -/

/-- HostPixWrite below PIXCAP: the one byte, and nothing else, whatever ERR holds (R38). -/
def Obligations.HostPixWriteChangesOneByte : Prop :=
  ∀ (s : State) (a : Nat) (v : Byte) (rest : List HostAction),
    s.input = .pixWrite a v :: rest → a < s.build.pixcap →
      ∃ t, step s = .next t ∧ t = { s with input := rest, pix := t.pix } ∧ t.pixByte a = v ∧
        ∀ b, b ≠ a → t.pixByte b = s.pixByte b

/-- HostPixRead and HostRegRead return the byte and the register, and change no state of the block (R39). The list
of replies is the model's own field, log entry 5. -/
def Obligations.HostReadsReturnAndChangeNothing : Prop :=
  (∀ (s : State) (a : Nat) (rest : List HostAction), s.input = .pixRead a :: rest → a < s.build.pixcap →
    step s = .next { s with input := rest, replies := s.replies ++ [.pix a (s.pixByte a)] }) ∧
    ∀ (s : State) (k : Nat) (rest : List HostAction), s.input = .regRead k :: rest → k < 16 →
      step s = .next { s with input := rest, replies := s.replies ++ [.reg k (s.readReg k)] }

/-- The register read port: each number's register, zeros above its width, the fields of FLAGS and FAULT, number 15
reads 0; a read changes nothing but what the host has been told (R25; the list of replies is the model's own field, log
entry 5). -/
def Obligations.RegisterReadPortMap : Prop :=
  ∀ s : State,
    (List.range 16).map (fun k => (s.readReg k).toNat) =
      [s.msize.toNat, s.rows.toNat, s.cols.toNat, s.ch.toNat,
        s.pixok.toNat + 2 * s.bayer.valid.toNat + 4 * s.lum.valid.toNat + 8 * s.dbit.valid.toNat +
          16 * s.sbit.valid.toNat,
        s.err.toNat + 16 * s.errstg.toNat, s.bayer.size.toNat, s.lum.rows.toNat, s.lum.cols.toNat,
        s.dbit.rows.toNat, s.dbit.cols.toNat, s.sbit.rows.toNat, s.sbit.cols.toNat, s.height.toNat,
        s.width.toNat, 0] ∧
      ∀ (k : Nat) (rest : List HostAction), s.input = .regRead k :: rest → k < 16 →
        step s = .next { s with input := rest, replies := s.replies ++ [.reg k (s.readReg k)] }

/-- A step is refused exactly on a host access out of range; with no action left the block is idle (R36, R113; the idle
step is the model's reading, log entry 4). No step stops the model with a fault: the block's own faults are next states,
recorded in ERR, and the model's type of stopping faults is empty (the model's reading, log entry 8). -/
def Obligations.OnlyOutOfRangeHostAccessesAreRefused : Prop :=
  ∀ s : State,
    ((∃ r, step s = .refused r) ↔ ∃ a rest, s.input = a :: rest ∧ a.allowed s.build = false) ∧
      (∀ f, step s ≠ .fault f) ∧ (s.input = [] → step s = .next s)

/-! ### Invariants and whole-machine rules -/

/-- The reset state of every build meets every invariant, with the four valid flags 0, nothing listed in PIX, no element
in a grid memory, the histories empty and HEIGHT = WIDTH = 0 (R29; the form of PIX and the empty grid memories are the
model's choices, log entries 2 and 3). -/
def Obligations.ResetStateMeetsTheInvariants : Prop :=
  ∀ b : Build, (State.resetOf b).Inv ∧ (State.resetOf b).build = b ∧ (State.resetOf b).pix = [] ∧
    (State.resetOf b).bayer = ⟨0#1, 0#16, []⟩ ∧ (State.resetOf b).lum = ⟨0#1, 0#16, 0#16, []⟩ ∧
    (State.resetOf b).dbit = ⟨0#1, 0#16, 0#16, []⟩ ∧ (State.resetOf b).sbit = ⟨0#1, 0#16, 0#16, []⟩ ∧
    (State.resetOf b).out = [] ∧ (State.resetOf b).txt = [] ∧ (State.resetOf b).height = 0#16 ∧
    (State.resetOf b).width = 0#16

/-- The reset state of every build, `State.reset` among them, holds the values of the column "value after power-on reset"
of rule R29, and RST leaves those of the
column "after command RST", from every state. -/
def Obligations.ResetValuesOfTheTable : Prop :=
  (∀ t : State, (t = State.reset ∨ (∃ b : Build, t = State.resetOf b) ∨ ∃ s : State, exec .rst s = .next t) →
    t.msize = 16#16 ∧ t.rows = 0#16 ∧ t.cols = 0#16 ∧ t.ch = 3#8 ∧ t.pixok = 0#1 ∧ t.err = 0#3 ∧ t.errstg = 0#3 ∧
      t.bayer.valid = 0#1 ∧ t.lum.valid = 0#1 ∧ t.dbit.valid = 0#1 ∧ t.sbit.valid = 0#1 ∧ t.bayer.size = 0#16 ∧
      t.lum.rows = 0#16 ∧ t.lum.cols = 0#16 ∧ t.dbit.rows = 0#16 ∧ t.dbit.cols = 0#16 ∧ t.sbit.rows = 0#16 ∧
      t.sbit.cols = 0#16 ∧ t.height = 0#16 ∧ t.width = 0#16) ∧
    State.reset.out = [] ∧ State.reset.txt = [] ∧
    (∀ b : Build, (State.resetOf b).out = [] ∧ (State.resetOf b).txt = []) ∧
    ∀ s t : State, exec .rst s = .next t → t.out = s.out ∧ t.txt = s.txt ∧ ∀ a, t.pixByte a = s.pixByte a

/-- Every step keeps PIX canonical and inside PIXCAP (R19, R36; the canonical form is the model's, log entry 2). -/
def Obligations.StepKeepsPixCanonical : Prop := ∀ s t : State, s.pixInv → step s = .next t → t.pixInv

/-- Every step keeps ERR and ERRSTG a pair the table of rule R102 allows (R16, R17). -/
def Obligations.StepKeepsFaultRegistersLegal : Prop := ∀ s t : State, s.faultInv → step s = .next t → t.faultInv

/-- Every step keeps the grid memories as rules R20 to R23 and R32 describe them; that an invalid memory holds no
element is the model's choice, log entry 3. -/
def Obligations.StepKeepsGridMemories : Prop := ∀ s t : State, s.gridInv → step s = .next t → t.gridInv

/-- Every step keeps OUT a list of well-formed frames and TXT the text of OUT (R26, R27). -/
def Obligations.StepKeepsTextTheTextOfTheFrames : Prop := ∀ s t : State, s.historyInv → step s = .next t → t.historyInv

/-- Every step keeps TXT made of the characters rule R54 lists: digits, `a` to `f`, `x`, comma and line feed. -/
def Obligations.StepKeepsTextInItsAlphabet : Prop :=
  ∀ s t : State, (∀ b ∈ s.txt, b ∈ textAlphabet) → step s = .next t → ∀ b ∈ t.txt, b ∈ textAlphabet

/-- Every step keeps HEIGHT and WIDTH at their reset values or at those of the last frame (R24). -/
def Obligations.StepKeepsSizeOfTheLastFrame : Prop := ∀ s t : State, s.sizeInv → step s = .next t → t.sizeInv

/-- Each configuration register is written only by its own command, by RST and by the reset input (R11 to R15). -/
def Obligations.ConfigurationWrittenOnlyByItsCommand : Prop :=
  ∀ (s t : State) (a : HostAction) (rest : List HostAction), s.input = a :: rest → step s = .next t →
    a ≠ .resetInput → a ≠ .command 0xFF000000#32 →
    (t.msize ≠ s.msize → ∃ v, a = .command (encode (.setn v)) ∧ t.msize = v) ∧
      (t.rows ≠ s.rows → ∃ v, a = .command (encode (.setrows v)) ∧ t.rows = v) ∧
      (t.cols ≠ s.cols → ∃ v, a = .command (encode (.setcols v)) ∧ t.cols = v) ∧
      (t.ch ≠ s.ch → ∃ v, a = .command (encode (.setch v)) ∧ t.ch = v) ∧
      (t.pixok ≠ s.pixok → ∃ v, a = .command (encode (.pixok v)) ∧ t.pixok = v)

/-- The histories only grow, but for the reset input; they grow only by PACK and CONVERT, by one frame (R26, R27). -/
def Obligations.HistoriesOnlyGrowByPackAndConvert : Prop :=
  ∀ (s t : State) (a : HostAction) (rest : List HostAction), s.input = a :: rest → step s = .next t →
    a ≠ .resetInput →
    (t.out = s.out ∧ t.txt = s.txt) ∨
      ((a = .command (encode .pack) ∨ a = .command (encode .convert)) ∧ s.err = 0#3 ∧
        ∃ f : Frame, t.out = s.out ++ [f] ∧ t.txt = s.txt ++ f.text)

/-- The build never changes, PIX changes only by a host write or the reset input, and a byte nothing writes keeps its
power-on value (R19, R28, R116). -/
def Obligations.PixWrittenOnlyByTheHost : Prop :=
  ∀ (s t : State) (a : HostAction) (rest : List HostAction), s.input = a :: rest → step s = .next t →
    t.build = s.build ∧ (a ≠ .resetInput → t.powerOns = s.powerOns ∧
      ((∀ b v, a ≠ .pixWrite b v) → t.pix = s.pix ∧ ∀ b, t.pixByte b = s.pixByte b))

/-- What CONVERT emits and which fault it ends with depend on nothing but the configuration registers, the build and
the bytes of the pixel grid: not on the grids, histories or size registers left by anything before (R98, R101,
R120). -/
def Obligations.ConvertDependsOnlyOnConfigurationAndPixels : Prop :=
  ∀ s s' t t' : State, s.build = s'.build → s.msize = s'.msize → s.rows = s'.rows → s.cols = s'.cols →
    s.ch = s'.ch → s.pixok = s'.pixok → s.err = 0#3 → s'.err = 0#3 → s.errstg = 0#3 → s'.errstg = 0#3 →
    (∀ a < 3 * s.rows.toNat * s.cols.toNat, s.pixByte a = s'.pixByte a) →
    exec .convert s = .next t → exec .convert s' = .next t' →
      t.err = t'.err ∧ t.errstg = t'.errstg ∧
        ∃ fs : List Frame, t.out = s.out ++ fs ∧ t'.out = s'.out ++ fs ∧
          t.txt = s.txt ++ textOf fs ∧ t'.txt = s'.txt ++ textOf fs

/-- A white pixel grid converts, for every legal size, to decisions all 1, stored bits all 0, every group value 0 and
every literal `0x0` (R95). -/
def Obligations.WhiteImagePacksToZero : Prop :=
  ∀ s : State, s.readyToConvert → (∀ a < 3 * s.rows.toNat * s.cols.toNat, s.pixByte a = 255#8) →
    ∃ t f, exec .convert s = .next t ∧ t.out = s.out ++ [f] ∧
      (∀ i < s.rows.toNat, ∀ j < s.cols.toNat, t.dbitAt i j = 1#1 ∧ t.sbitAt i j = 0#1) ∧
      (∀ c ∈ f.columns, ∀ g ∈ c.groups, g.value = 0#8) ∧
      t.txt = s.txt ++ (List.replicate s.cols.toNat
        (lineOf (List.replicate (nGroups s.rows.toNat) 0))).flatten ∧
      hexLit 0 = [0x30#8, 0x78#8, 0x30#8]
end

