-- ==== Sys2Proof/Laws/Assembler.lean ====
section
/-! SUPPORT. The text reader of the assembler: a numeral reads back as its value, and the words of a line (R51). -/

namespace Sys2Proof.Machine

/-- The characters that end no word: not white space, not a comma, not the start of a comment. -/
def wordChar (c : Char) : Prop := c ≠ ';' ∧ c ≠ ' ' ∧ c ≠ '\t' ∧ c ≠ ','

/-- Characters of a word are collected. -/
theorem wordsFrom_append {w : List Char} (h : ∀ c ∈ w, wordChar c) (cur rest : List Char) :
    wordsFrom cur (w ++ rest) = wordsFrom (w.reverse ++ cur) rest := by
  induction w generalizing cur with
  | nil => rfl
  | cons c w ih =>
    obtain ⟨h1, h2, h3, h4⟩ := h c (by simp)
    rw [List.cons_append, wordsFrom, if_neg h1, if_neg (by simp [h2, h3]), if_neg h4,
      ih (fun d hd => h d (by simp [hd]))]
    simp

/-- A word at the end of a line, or before a comment, is the last word. -/
theorem wordsFrom_last {w : List Char} (h : ∀ c ∈ w, wordChar c) (hw : w ≠ []) {tail : List Char}
    (ht : tail = [] ∨ ∃ comment, tail = ';' :: comment) : wordsFrom [] (w ++ tail) = [w] := by
  rw [wordsFrom_append h]
  rcases ht with rfl | ⟨comment, rfl⟩ <;> simp [wordsFrom, finishedWord, hw]

/-- A word before a space. -/
theorem wordsFrom_space {w : List Char} (h : ∀ c ∈ w, wordChar c) (hw : w ≠ []) (rest : List Char) :
    wordsFrom [] (w ++ ' ' :: rest) = w :: wordsFrom [] rest := by
  rw [wordsFrom_append h]
  simp [wordsFrom, finishedWord, hw]

/-- A word before a comma. -/
theorem wordsFrom_comma {w : List Char} (h : ∀ c ∈ w, wordChar c) (hw : w ≠ []) (rest : List Char) :
    wordsFrom [] (w ++ ',' :: rest) = w :: [','] :: wordsFrom [] rest := by
  rw [wordsFrom_append h]
  simp [wordsFrom, finishedWord, hw]

/-- A space at the start of what is left is skipped. -/
theorem wordsFrom_skip (rest : List Char) : wordsFrom [] (' ' :: rest) = wordsFrom [] rest := by
  simp [wordsFrom, finishedWord]

/-- The last digit of a numeral. -/
theorem digitsFrom_append (base : Nat) (digit? : Char → Option Nat) (acc : Nat) (xs : List Char) (c : Char) :
    digitsFrom base digit? acc (xs ++ [c]) =
      (digitsFrom base digit? acc xs).bind fun a => (digit? c).map fun d => base * a + d := by
  induction xs generalizing acc with
  | nil => cases h : digit? c <;> simp [digitsFrom, h]
  | cons x xs ih =>
    cases h : digit? x <;> simp [digitsFrom, h, ih]

/-- The digits of a number read back as the number. -/
theorem digitsFrom_toDigits {base : Nat} (hb : 1 < base) {digit? : Char → Option Nat}
    (h : ∀ d < base, digit? d.digitChar = some d) (n : Nat) :
    digitsFrom base digit? 0 (Nat.toDigits base n) = some n := by
  induction n using Nat.strongRecOn with
  | _ n ih =>
    rw [Nat.toDigits_eq_if hb]
    split
    · simp [digitsFrom, h n ‹_›]
    · rw [digitsFrom_append, ih _ (Nat.div_lt_self (by omega) hb)]
      simp [h _ (Nat.mod_lt n (by omega)), Nat.div_add_mod]

/-- The digits of a number are digits. -/
theorem mem_toDigits {base : Nat} (hb : 1 < base) {n : Nat} {c : Char} (h : c ∈ Nat.toDigits base n) :
    ∃ d < base, c = d.digitChar := by
  induction n using Nat.strongRecOn with
  | _ n ih =>
    rw [Nat.toDigits_eq_if hb] at h
    split at h
    · exact ⟨n, ‹_›, by simpa using h⟩
    · rcases List.mem_append.1 h with h | h
      · exact ih _ (Nat.div_lt_self (by omega) hb) h
      · exact ⟨n % base, Nat.mod_lt _ (by omega), by simpa using h⟩

theorem toDigits_ne_nil {base : Nat} (hb : 1 < base) (n : Nat) : Nat.toDigits base n ≠ [] := by
  rw [Nat.toDigits_eq_if hb]
  split <;> simp

theorem decimalDigit?_digitChar : ∀ d < 10, decimalDigit? d.digitChar = some d := by decide

theorem hexDigit?_digitChar : ∀ d < 16, hexDigit? d.digitChar = some d := by decide

/-- A hexadecimal digit is a character of a word. -/
theorem digitChar_wordChar : ∀ d < 16, wordChar d.digitChar := by unfold wordChar; decide

/-- Without an `x` a numeral is decimal. -/
theorem operand?_decimal {l : List Char} (hl : l ≠ []) (hx : 'x' ∉ l) : operand? l = digitsFrom 10 decimalDigit? 0 l := by
  unfold operand?
  split
  · exact absurd rfl hl
  · simp at hx
  · rfl

/-- A numeral in either base reads back as its value, is not empty, and is one word. -/
theorem operand?_numeral {numeral : Nat → List Char} (h : numeral ∈ [decimal, hexadecimal]) (n : Nat) :
    operand? (numeral n) = some n ∧ numeral n ≠ [] ∧ ∀ c ∈ numeral n, wordChar c := by
  simp only [List.mem_cons, List.not_mem_nil, or_false] at h
  rcases h with rfl | rfl
  · refine ⟨?_, toDigits_ne_nil (by omega) n, fun c hc => ?_⟩
    · unfold decimal
      rw [operand?_decimal (toDigits_ne_nil (by omega) n), digitsFrom_toDigits (by omega) decimalDigit?_digitChar]
      intro hx
      obtain ⟨d, hd, e⟩ := mem_toDigits (by omega) hx
      clear hx
      revert d; decide
    · obtain ⟨d, hd, rfl⟩ := mem_toDigits (by omega) hc
      exact digitChar_wordChar d (by omega)
  · refine ⟨?_, by simp [hexadecimal], fun c hc => ?_⟩
    · unfold hexadecimal
      have hne := toDigits_ne_nil (base := 16) (by omega) n
      have hv := digitsFrom_toDigits (base := 16) (by omega) hexDigit?_digitChar n
      generalize Nat.toDigits 16 n = l at hne hv
      cases l with
      | nil => exact absurd rfl hne
      | cons c cs => exact hv
    · simp only [hexadecimal, List.mem_cons] at hc
      rcases hc with rfl | rfl | hc
      · unfold wordChar; decide
      · unfold wordChar; decide
      · obtain ⟨d, hd, rfl⟩ := mem_toDigits (by omega) hc
        exact digitChar_wordChar d hd

/-- A mnemonic is one word. -/
theorem mnemonic_text_word (m : Mnemonic) : Mnemonic.text m ≠ [] ∧ ∀ c ∈ Mnemonic.text m, wordChar c := by
  cases m <;> simp [Mnemonic.text, wordChar]

end Sys2Proof.Machine
end

