-- ==== Sys2Proof/Laws/Bayer.lean ====
section
/-! SUPPORT. The Bayer matrix: its recursion over a level, its range (R65, R67), and the legal sizes as levels. -/

namespace Sys2Proof.Machine

/-- A legal size is 2^(k+1) for a level k up to 5, and `genRank` is the recursion at that level. -/
theorem isValidN_level {n : Nat} (h : isValidN n = true) :
    ∃ k ≤ 5, n = 2 ^ (k + 1) ∧ n.log2 = k + 1 ∧ ∀ a b, genRank n a b = bayerRank k a b := by
  simp only [isValidN, Bool.or_eq_true, beq_iff_eq] at h
  rcases h with ((((rfl | rfl) | rfl) | rfl) | rfl) | rfl
  · exact ⟨0, by omega, rfl, by decide, fun _ _ => rfl⟩
  · exact ⟨1, by omega, rfl, by decide, fun _ _ => rfl⟩
  · exact ⟨2, by omega, rfl, by decide, fun _ _ => rfl⟩
  · exact ⟨3, by omega, rfl, by decide, fun _ _ => rfl⟩
  · exact ⟨4, by omega, rfl, by decide, fun _ _ => rfl⟩
  · exact ⟨5, by omega, rfl, by decide, fun _ _ => rfl⟩

theorem isValidN_pow {k : Nat} (h : k ≤ 5) : isValidN (2 ^ (k + 1)) = true := by
  interval_cases k <;> rfl

section
variable {k a b : Nat}

theorem bayerRank_topLeft (ha : a < 2 ^ (k + 1)) (hb : b < 2 ^ (k + 1)) :
    bayerRank (k + 1) a b = 4 * bayerRank k a b := by simp [bayerRank, ha, hb]

theorem bayerRank_topRight (ha : a < 2 ^ (k + 1)) :
    bayerRank (k + 1) a (b + 2 ^ (k + 1)) = 4 * bayerRank k a b + 2 := by simp [bayerRank, ha]

theorem bayerRank_bottomLeft (hb : b < 2 ^ (k + 1)) :
    bayerRank (k + 1) (a + 2 ^ (k + 1)) b = 4 * bayerRank k a b + 3 := by simp [bayerRank, hb]

theorem bayerRank_bottomRight :
    bayerRank (k + 1) (a + 2 ^ (k + 1)) (b + 2 ^ (k + 1)) = 4 * bayerRank k a b + 1 := by simp [bayerRank]

end

/-- Ranks of level `k` are below 4^(k+1) = n² (R20, R67). -/
theorem bayerRank_lt (k a b : Nat) : bayerRank k a b < 4 ^ (k + 1) := by
  induction k generalizing a b with
  | zero => unfold bayerRank baseRank; split <;> omega
  | succ k ih =>
    have e : 4 ^ (k + 1 + 1) = 4 * 4 ^ (k + 1) := by ring
    simp only [bayerRank, e]
    split <;> split
    · have := ih a b; omega
    · have := ih a (b - 2 ^ (k + 1)); omega
    · have := ih (a - 2 ^ (k + 1)) b; omega
    · have := ih (a - 2 ^ (k + 1)) (b - 2 ^ (k + 1)); omega

/-- Every rank of a legal matrix is below n² (R20). -/
theorem genRank_lt {n : Nat} (h : isValidN n = true) (a b : Nat) : genRank n a b < n ^ 2 := by
  obtain ⟨k, -, rfl, -, hg⟩ := isValidN_level h
  rw [hg]
  calc bayerRank k a b < 4 ^ (k + 1) := bayerRank_lt k a b
    _ = (2 ^ (k + 1)) ^ 2 := by rw [← pow_mul, mul_comm, pow_mul]; norm_num

/-- Every rank fits its 12 bits (R6, R20). -/
theorem genRank_lt_4096 {n : Nat} (h : isValidN n = true) (a b : Nat) : genRank n a b < 4096 := by
  have h1 := genRank_lt h a b
  have h2 : n ≤ 64 := by
    simp only [isValidN, Bool.or_eq_true, beq_iff_eq] at h
    omega
  nlinarith

end Sys2Proof.Machine
end

