-- ==== Sys2Proof/Laws/Decode.lean ====
section
/-! SUPPORT. Decoding: what an opcode selects, and what the decoder answers (R45 to R50). -/

namespace Sys2Proof

/-- An opcode selects at most the row that has it (R47). -/
theorem mnemonicOf_eq_some {op : Byte} {m : Mnemonic} : mnemonicOf op = some m ↔ m.opcode = op := by
  constructor
  · intro h
    have := List.find?_some h
    simpa using this
  · rintro rfl
    cases m <;> rfl

theorem decode_ok {w : Word} {i : Instr} : decode w = .ok i ↔
    ∃ m : Mnemonic, m.opcode = opcodeField w ∧ mustBeZeroField m.format w = 0#24 ∧ i = m.withOperand w := by
  unfold decode
  split
  · rename_i h
    simp only [reduceCtorEq, false_iff]
    rintro ⟨m, hm, -⟩
    rw [mnemonicOf_eq_some.2 hm] at h
    cases h
  · rename_i m h
    rw [mnemonicOf_eq_some] at h
    have hu : ∀ m' : Mnemonic, m'.opcode = opcodeField w → m' = m := by
      intro m' h'
      have := (mnemonicOf_eq_some.2 h').symm.trans (mnemonicOf_eq_some.2 h)
      exact Option.some.inj this
    split
    · constructor
      · intro h2; cases h2; exact ⟨m, h, ‹_›, rfl⟩
      · rintro ⟨m', h1, -, rfl⟩; rw [hu m' h1]
    · simp only [reduceCtorEq, false_iff]
      rintro ⟨m', h1, h2, -⟩
      exact ‹¬ _› (hu m' h1 ▸ h2)

theorem mnemonic_withOperand (m : Mnemonic) (w : Word) : (m.withOperand w).mnemonic = m := by cases m <;> rfl

theorem decode_rstWord : decode rstWord = .ok .rst := by decide

theorem tableWord_toNat (w : Word) : tableWord 32 w.toNat = w := by
  unfold tableWord
  rw [Nat.mod_eq_of_lt w.isLt]
  simp

/-- The value of an opcode field. -/
theorem opcodeField_toNat (w : Word) : (opcodeField w).toNat = w.toNat / 2 ^ 24 := by
  have := w.isLt
  simp only [opcodeField, BitVec.extractLsb'_toNat, Nat.shiftRight_eq_div_pow]
  omega

/-- The value of an operand field. -/
theorem operandField_toNat (w : Word) : (operandField w).toNat = w.toNat % 2 ^ 24 := by
  simp [operandField, BitVec.extractLsb'_toNat]

/-- The value of a must-be-zero field. -/
theorem mustBeZeroField_eq_zero (f : Format) (w : Word) :
    mustBeZeroField f w = 0#24 ↔ w.toNat % 2 ^ 24 / 2 ^ f.immWidth = 0 := by
  rw [← BitVec.toNat_inj]
  simp [mustBeZeroField, operandField_toNat, BitVec.toNat_ushiftRight, Nat.shiftRight_eq_div_pow]

/-- The value of a command's word: its opcode above its operand field. -/
theorem encode_toNat (i : Instr) : (encode i).toNat = i.mnemonic.opcode.toNat * 2 ^ 24 + i.operandBits.toNat := by
  unfold encode
  rw [BitVec.toNat_append, Nat.shiftLeft_eq, Nat.or_comm]
  have h := i.operandBits.isLt
  rw [← Nat.shiftLeft_eq, Nat.or_comm, ← Nat.shiftLeft_add_eq_or_of_lt h, Nat.shiftLeft_eq]

end Sys2Proof
end

