-- ==== Sys2Proof/Laws/State.lean ====
section
/-! SUPPORT. What each named update of State leaves in each field: one lemma per field per update, so that no later
proof unfolds a record update. -/

namespace Sys2Proof.Machine

/-! ### writePix -/

section
variable (s : State) (a : Nat) (v : Byte)

@[simp] theorem State.writePix_build : (s.writePix a v).build = s.build := rfl
@[simp] theorem State.writePix_msize : (s.writePix a v).msize = s.msize := rfl
@[simp] theorem State.writePix_rows : (s.writePix a v).rows = s.rows := rfl
@[simp] theorem State.writePix_cols : (s.writePix a v).cols = s.cols := rfl
@[simp] theorem State.writePix_ch : (s.writePix a v).ch = s.ch := rfl
@[simp] theorem State.writePix_pixok : (s.writePix a v).pixok = s.pixok := rfl
@[simp] theorem State.writePix_err : (s.writePix a v).err = s.err := rfl
@[simp] theorem State.writePix_errstg : (s.writePix a v).errstg = s.errstg := rfl
@[simp] theorem State.writePix_pix : (s.writePix a v).pix = Memory.write s.pix a v := rfl
@[simp] theorem State.writePix_bayer : (s.writePix a v).bayer = s.bayer := rfl
@[simp] theorem State.writePix_lum : (s.writePix a v).lum = s.lum := rfl
@[simp] theorem State.writePix_dbit : (s.writePix a v).dbit = s.dbit := rfl
@[simp] theorem State.writePix_sbit : (s.writePix a v).sbit = s.sbit := rfl
@[simp] theorem State.writePix_height : (s.writePix a v).height = s.height := rfl
@[simp] theorem State.writePix_width : (s.writePix a v).width = s.width := rfl
@[simp] theorem State.writePix_out : (s.writePix a v).out = s.out := rfl
@[simp] theorem State.writePix_txt : (s.writePix a v).txt = s.txt := rfl
@[simp] theorem State.writePix_powerOns : (s.writePix a v).powerOns = s.powerOns := rfl
@[simp] theorem State.writePix_input : (s.writePix a v).input = s.input := rfl
@[simp] theorem State.writePix_replies : (s.writePix a v).replies = s.replies := rfl

end

/-! ### putBayer -/

section
variable (s : State) (n : Half) (g : Grid 12)

@[simp] theorem State.putBayer_build : (s.putBayer n g).build = s.build := rfl
@[simp] theorem State.putBayer_msize : (s.putBayer n g).msize = s.msize := rfl
@[simp] theorem State.putBayer_rows : (s.putBayer n g).rows = s.rows := rfl
@[simp] theorem State.putBayer_cols : (s.putBayer n g).cols = s.cols := rfl
@[simp] theorem State.putBayer_ch : (s.putBayer n g).ch = s.ch := rfl
@[simp] theorem State.putBayer_pixok : (s.putBayer n g).pixok = s.pixok := rfl
@[simp] theorem State.putBayer_err : (s.putBayer n g).err = s.err := rfl
@[simp] theorem State.putBayer_errstg : (s.putBayer n g).errstg = s.errstg := rfl
@[simp] theorem State.putBayer_pix : (s.putBayer n g).pix = s.pix := rfl
@[simp] theorem State.putBayer_bayer : (s.putBayer n g).bayer = ⟨1#1, n, g⟩ := rfl
@[simp] theorem State.putBayer_lum : (s.putBayer n g).lum = s.lum := rfl
@[simp] theorem State.putBayer_dbit : (s.putBayer n g).dbit = s.dbit := rfl
@[simp] theorem State.putBayer_sbit : (s.putBayer n g).sbit = s.sbit := rfl
@[simp] theorem State.putBayer_height : (s.putBayer n g).height = s.height := rfl
@[simp] theorem State.putBayer_width : (s.putBayer n g).width = s.width := rfl
@[simp] theorem State.putBayer_out : (s.putBayer n g).out = s.out := rfl
@[simp] theorem State.putBayer_txt : (s.putBayer n g).txt = s.txt := rfl
@[simp] theorem State.putBayer_powerOns : (s.putBayer n g).powerOns = s.powerOns := rfl
@[simp] theorem State.putBayer_input : (s.putBayer n g).input = s.input := rfl
@[simp] theorem State.putBayer_replies : (s.putBayer n g).replies = s.replies := rfl

end

/-! ### putLum -/

section
variable (s : State) (r c : Half) (g : Grid 22)

@[simp] theorem State.putLum_build : (s.putLum r c g).build = s.build := rfl
@[simp] theorem State.putLum_msize : (s.putLum r c g).msize = s.msize := rfl
@[simp] theorem State.putLum_rows : (s.putLum r c g).rows = s.rows := rfl
@[simp] theorem State.putLum_cols : (s.putLum r c g).cols = s.cols := rfl
@[simp] theorem State.putLum_ch : (s.putLum r c g).ch = s.ch := rfl
@[simp] theorem State.putLum_pixok : (s.putLum r c g).pixok = s.pixok := rfl
@[simp] theorem State.putLum_err : (s.putLum r c g).err = s.err := rfl
@[simp] theorem State.putLum_errstg : (s.putLum r c g).errstg = s.errstg := rfl
@[simp] theorem State.putLum_pix : (s.putLum r c g).pix = s.pix := rfl
@[simp] theorem State.putLum_bayer : (s.putLum r c g).bayer = s.bayer := rfl
@[simp] theorem State.putLum_lum : (s.putLum r c g).lum = ⟨1#1, r, c, g⟩ := rfl
@[simp] theorem State.putLum_dbit : (s.putLum r c g).dbit = s.dbit := rfl
@[simp] theorem State.putLum_sbit : (s.putLum r c g).sbit = s.sbit := rfl
@[simp] theorem State.putLum_height : (s.putLum r c g).height = s.height := rfl
@[simp] theorem State.putLum_width : (s.putLum r c g).width = s.width := rfl
@[simp] theorem State.putLum_out : (s.putLum r c g).out = s.out := rfl
@[simp] theorem State.putLum_txt : (s.putLum r c g).txt = s.txt := rfl
@[simp] theorem State.putLum_powerOns : (s.putLum r c g).powerOns = s.powerOns := rfl
@[simp] theorem State.putLum_input : (s.putLum r c g).input = s.input := rfl
@[simp] theorem State.putLum_replies : (s.putLum r c g).replies = s.replies := rfl

end

/-! ### putDbit -/

section
variable (s : State) (r c : Half) (g : Grid 1)

@[simp] theorem State.putDbit_build : (s.putDbit r c g).build = s.build := rfl
@[simp] theorem State.putDbit_msize : (s.putDbit r c g).msize = s.msize := rfl
@[simp] theorem State.putDbit_rows : (s.putDbit r c g).rows = s.rows := rfl
@[simp] theorem State.putDbit_cols : (s.putDbit r c g).cols = s.cols := rfl
@[simp] theorem State.putDbit_ch : (s.putDbit r c g).ch = s.ch := rfl
@[simp] theorem State.putDbit_pixok : (s.putDbit r c g).pixok = s.pixok := rfl
@[simp] theorem State.putDbit_err : (s.putDbit r c g).err = s.err := rfl
@[simp] theorem State.putDbit_errstg : (s.putDbit r c g).errstg = s.errstg := rfl
@[simp] theorem State.putDbit_pix : (s.putDbit r c g).pix = s.pix := rfl
@[simp] theorem State.putDbit_bayer : (s.putDbit r c g).bayer = s.bayer := rfl
@[simp] theorem State.putDbit_lum : (s.putDbit r c g).lum = s.lum := rfl
@[simp] theorem State.putDbit_dbit : (s.putDbit r c g).dbit = ⟨1#1, r, c, g⟩ := rfl
@[simp] theorem State.putDbit_sbit : (s.putDbit r c g).sbit = s.sbit := rfl
@[simp] theorem State.putDbit_height : (s.putDbit r c g).height = s.height := rfl
@[simp] theorem State.putDbit_width : (s.putDbit r c g).width = s.width := rfl
@[simp] theorem State.putDbit_out : (s.putDbit r c g).out = s.out := rfl
@[simp] theorem State.putDbit_txt : (s.putDbit r c g).txt = s.txt := rfl
@[simp] theorem State.putDbit_powerOns : (s.putDbit r c g).powerOns = s.powerOns := rfl
@[simp] theorem State.putDbit_input : (s.putDbit r c g).input = s.input := rfl
@[simp] theorem State.putDbit_replies : (s.putDbit r c g).replies = s.replies := rfl

end

/-! ### putSbit -/

section
variable (s : State) (r c : Half) (g : Grid 1)

@[simp] theorem State.putSbit_build : (s.putSbit r c g).build = s.build := rfl
@[simp] theorem State.putSbit_msize : (s.putSbit r c g).msize = s.msize := rfl
@[simp] theorem State.putSbit_rows : (s.putSbit r c g).rows = s.rows := rfl
@[simp] theorem State.putSbit_cols : (s.putSbit r c g).cols = s.cols := rfl
@[simp] theorem State.putSbit_ch : (s.putSbit r c g).ch = s.ch := rfl
@[simp] theorem State.putSbit_pixok : (s.putSbit r c g).pixok = s.pixok := rfl
@[simp] theorem State.putSbit_err : (s.putSbit r c g).err = s.err := rfl
@[simp] theorem State.putSbit_errstg : (s.putSbit r c g).errstg = s.errstg := rfl
@[simp] theorem State.putSbit_pix : (s.putSbit r c g).pix = s.pix := rfl
@[simp] theorem State.putSbit_bayer : (s.putSbit r c g).bayer = s.bayer := rfl
@[simp] theorem State.putSbit_lum : (s.putSbit r c g).lum = s.lum := rfl
@[simp] theorem State.putSbit_dbit : (s.putSbit r c g).dbit = s.dbit := rfl
@[simp] theorem State.putSbit_sbit : (s.putSbit r c g).sbit = ⟨1#1, r, c, g⟩ := rfl
@[simp] theorem State.putSbit_height : (s.putSbit r c g).height = s.height := rfl
@[simp] theorem State.putSbit_width : (s.putSbit r c g).width = s.width := rfl
@[simp] theorem State.putSbit_out : (s.putSbit r c g).out = s.out := rfl
@[simp] theorem State.putSbit_txt : (s.putSbit r c g).txt = s.txt := rfl
@[simp] theorem State.putSbit_powerOns : (s.putSbit r c g).powerOns = s.powerOns := rfl
@[simp] theorem State.putSbit_input : (s.putSbit r c g).input = s.input := rfl
@[simp] theorem State.putSbit_replies : (s.putSbit r c g).replies = s.replies := rfl

end

/-! ### emit -/

section
variable (s : State) (f : Frame) (x : List Byte)

@[simp] theorem State.emit_build : (s.emit f x).build = s.build := rfl
@[simp] theorem State.emit_msize : (s.emit f x).msize = s.msize := rfl
@[simp] theorem State.emit_rows : (s.emit f x).rows = s.rows := rfl
@[simp] theorem State.emit_cols : (s.emit f x).cols = s.cols := rfl
@[simp] theorem State.emit_ch : (s.emit f x).ch = s.ch := rfl
@[simp] theorem State.emit_pixok : (s.emit f x).pixok = s.pixok := rfl
@[simp] theorem State.emit_err : (s.emit f x).err = s.err := rfl
@[simp] theorem State.emit_errstg : (s.emit f x).errstg = s.errstg := rfl
@[simp] theorem State.emit_pix : (s.emit f x).pix = s.pix := rfl
@[simp] theorem State.emit_bayer : (s.emit f x).bayer = s.bayer := rfl
@[simp] theorem State.emit_lum : (s.emit f x).lum = s.lum := rfl
@[simp] theorem State.emit_dbit : (s.emit f x).dbit = s.dbit := rfl
@[simp] theorem State.emit_sbit : (s.emit f x).sbit = s.sbit := rfl
@[simp] theorem State.emit_height : (s.emit f x).height = f.height := rfl
@[simp] theorem State.emit_width : (s.emit f x).width = f.width := rfl
@[simp] theorem State.emit_out : (s.emit f x).out = s.out ++ [f] := rfl
@[simp] theorem State.emit_txt : (s.emit f x).txt = s.txt ++ x := rfl
@[simp] theorem State.emit_powerOns : (s.emit f x).powerOns = s.powerOns := rfl
@[simp] theorem State.emit_input : (s.emit f x).input = s.input := rfl
@[simp] theorem State.emit_replies : (s.emit f x).replies = s.replies := rfl

end

/-! ### setMsize -/

section
variable (s : State) (v : Half)

@[simp] theorem State.setMsize_build : (s.setMsize v).build = s.build := rfl
@[simp] theorem State.setMsize_msize : (s.setMsize v).msize = v := rfl
@[simp] theorem State.setMsize_rows : (s.setMsize v).rows = s.rows := rfl
@[simp] theorem State.setMsize_cols : (s.setMsize v).cols = s.cols := rfl
@[simp] theorem State.setMsize_ch : (s.setMsize v).ch = s.ch := rfl
@[simp] theorem State.setMsize_pixok : (s.setMsize v).pixok = s.pixok := rfl
@[simp] theorem State.setMsize_err : (s.setMsize v).err = s.err := rfl
@[simp] theorem State.setMsize_errstg : (s.setMsize v).errstg = s.errstg := rfl
@[simp] theorem State.setMsize_pix : (s.setMsize v).pix = s.pix := rfl
@[simp] theorem State.setMsize_bayer : (s.setMsize v).bayer = s.bayer := rfl
@[simp] theorem State.setMsize_lum : (s.setMsize v).lum = s.lum := rfl
@[simp] theorem State.setMsize_dbit : (s.setMsize v).dbit = s.dbit := rfl
@[simp] theorem State.setMsize_sbit : (s.setMsize v).sbit = s.sbit := rfl
@[simp] theorem State.setMsize_height : (s.setMsize v).height = s.height := rfl
@[simp] theorem State.setMsize_width : (s.setMsize v).width = s.width := rfl
@[simp] theorem State.setMsize_out : (s.setMsize v).out = s.out := rfl
@[simp] theorem State.setMsize_txt : (s.setMsize v).txt = s.txt := rfl
@[simp] theorem State.setMsize_powerOns : (s.setMsize v).powerOns = s.powerOns := rfl
@[simp] theorem State.setMsize_input : (s.setMsize v).input = s.input := rfl
@[simp] theorem State.setMsize_replies : (s.setMsize v).replies = s.replies := rfl

end

/-! ### setRows -/

section
variable (s : State) (v : Half)

@[simp] theorem State.setRows_build : (s.setRows v).build = s.build := rfl
@[simp] theorem State.setRows_msize : (s.setRows v).msize = s.msize := rfl
@[simp] theorem State.setRows_rows : (s.setRows v).rows = v := rfl
@[simp] theorem State.setRows_cols : (s.setRows v).cols = s.cols := rfl
@[simp] theorem State.setRows_ch : (s.setRows v).ch = s.ch := rfl
@[simp] theorem State.setRows_pixok : (s.setRows v).pixok = s.pixok := rfl
@[simp] theorem State.setRows_err : (s.setRows v).err = s.err := rfl
@[simp] theorem State.setRows_errstg : (s.setRows v).errstg = s.errstg := rfl
@[simp] theorem State.setRows_pix : (s.setRows v).pix = s.pix := rfl
@[simp] theorem State.setRows_bayer : (s.setRows v).bayer = s.bayer := rfl
@[simp] theorem State.setRows_lum : (s.setRows v).lum = s.lum := rfl
@[simp] theorem State.setRows_dbit : (s.setRows v).dbit = s.dbit := rfl
@[simp] theorem State.setRows_sbit : (s.setRows v).sbit = s.sbit := rfl
@[simp] theorem State.setRows_height : (s.setRows v).height = s.height := rfl
@[simp] theorem State.setRows_width : (s.setRows v).width = s.width := rfl
@[simp] theorem State.setRows_out : (s.setRows v).out = s.out := rfl
@[simp] theorem State.setRows_txt : (s.setRows v).txt = s.txt := rfl
@[simp] theorem State.setRows_powerOns : (s.setRows v).powerOns = s.powerOns := rfl
@[simp] theorem State.setRows_input : (s.setRows v).input = s.input := rfl
@[simp] theorem State.setRows_replies : (s.setRows v).replies = s.replies := rfl

end

/-! ### setCols -/

section
variable (s : State) (v : Half)

@[simp] theorem State.setCols_build : (s.setCols v).build = s.build := rfl
@[simp] theorem State.setCols_msize : (s.setCols v).msize = s.msize := rfl
@[simp] theorem State.setCols_rows : (s.setCols v).rows = s.rows := rfl
@[simp] theorem State.setCols_cols : (s.setCols v).cols = v := rfl
@[simp] theorem State.setCols_ch : (s.setCols v).ch = s.ch := rfl
@[simp] theorem State.setCols_pixok : (s.setCols v).pixok = s.pixok := rfl
@[simp] theorem State.setCols_err : (s.setCols v).err = s.err := rfl
@[simp] theorem State.setCols_errstg : (s.setCols v).errstg = s.errstg := rfl
@[simp] theorem State.setCols_pix : (s.setCols v).pix = s.pix := rfl
@[simp] theorem State.setCols_bayer : (s.setCols v).bayer = s.bayer := rfl
@[simp] theorem State.setCols_lum : (s.setCols v).lum = s.lum := rfl
@[simp] theorem State.setCols_dbit : (s.setCols v).dbit = s.dbit := rfl
@[simp] theorem State.setCols_sbit : (s.setCols v).sbit = s.sbit := rfl
@[simp] theorem State.setCols_height : (s.setCols v).height = s.height := rfl
@[simp] theorem State.setCols_width : (s.setCols v).width = s.width := rfl
@[simp] theorem State.setCols_out : (s.setCols v).out = s.out := rfl
@[simp] theorem State.setCols_txt : (s.setCols v).txt = s.txt := rfl
@[simp] theorem State.setCols_powerOns : (s.setCols v).powerOns = s.powerOns := rfl
@[simp] theorem State.setCols_input : (s.setCols v).input = s.input := rfl
@[simp] theorem State.setCols_replies : (s.setCols v).replies = s.replies := rfl

end

/-! ### setCh -/

section
variable (s : State) (v : Byte)

@[simp] theorem State.setCh_build : (s.setCh v).build = s.build := rfl
@[simp] theorem State.setCh_msize : (s.setCh v).msize = s.msize := rfl
@[simp] theorem State.setCh_rows : (s.setCh v).rows = s.rows := rfl
@[simp] theorem State.setCh_cols : (s.setCh v).cols = s.cols := rfl
@[simp] theorem State.setCh_ch : (s.setCh v).ch = v := rfl
@[simp] theorem State.setCh_pixok : (s.setCh v).pixok = s.pixok := rfl
@[simp] theorem State.setCh_err : (s.setCh v).err = s.err := rfl
@[simp] theorem State.setCh_errstg : (s.setCh v).errstg = s.errstg := rfl
@[simp] theorem State.setCh_pix : (s.setCh v).pix = s.pix := rfl
@[simp] theorem State.setCh_bayer : (s.setCh v).bayer = s.bayer := rfl
@[simp] theorem State.setCh_lum : (s.setCh v).lum = s.lum := rfl
@[simp] theorem State.setCh_dbit : (s.setCh v).dbit = s.dbit := rfl
@[simp] theorem State.setCh_sbit : (s.setCh v).sbit = s.sbit := rfl
@[simp] theorem State.setCh_height : (s.setCh v).height = s.height := rfl
@[simp] theorem State.setCh_width : (s.setCh v).width = s.width := rfl
@[simp] theorem State.setCh_out : (s.setCh v).out = s.out := rfl
@[simp] theorem State.setCh_txt : (s.setCh v).txt = s.txt := rfl
@[simp] theorem State.setCh_powerOns : (s.setCh v).powerOns = s.powerOns := rfl
@[simp] theorem State.setCh_input : (s.setCh v).input = s.input := rfl
@[simp] theorem State.setCh_replies : (s.setCh v).replies = s.replies := rfl

end

/-! ### setPixok -/

section
variable (s : State) (v : Bit)

@[simp] theorem State.setPixok_build : (s.setPixok v).build = s.build := rfl
@[simp] theorem State.setPixok_msize : (s.setPixok v).msize = s.msize := rfl
@[simp] theorem State.setPixok_rows : (s.setPixok v).rows = s.rows := rfl
@[simp] theorem State.setPixok_cols : (s.setPixok v).cols = s.cols := rfl
@[simp] theorem State.setPixok_ch : (s.setPixok v).ch = s.ch := rfl
@[simp] theorem State.setPixok_pixok : (s.setPixok v).pixok = v := rfl
@[simp] theorem State.setPixok_err : (s.setPixok v).err = s.err := rfl
@[simp] theorem State.setPixok_errstg : (s.setPixok v).errstg = s.errstg := rfl
@[simp] theorem State.setPixok_pix : (s.setPixok v).pix = s.pix := rfl
@[simp] theorem State.setPixok_bayer : (s.setPixok v).bayer = s.bayer := rfl
@[simp] theorem State.setPixok_lum : (s.setPixok v).lum = s.lum := rfl
@[simp] theorem State.setPixok_dbit : (s.setPixok v).dbit = s.dbit := rfl
@[simp] theorem State.setPixok_sbit : (s.setPixok v).sbit = s.sbit := rfl
@[simp] theorem State.setPixok_height : (s.setPixok v).height = s.height := rfl
@[simp] theorem State.setPixok_width : (s.setPixok v).width = s.width := rfl
@[simp] theorem State.setPixok_out : (s.setPixok v).out = s.out := rfl
@[simp] theorem State.setPixok_txt : (s.setPixok v).txt = s.txt := rfl
@[simp] theorem State.setPixok_powerOns : (s.setPixok v).powerOns = s.powerOns := rfl
@[simp] theorem State.setPixok_input : (s.setPixok v).input = s.input := rfl
@[simp] theorem State.setPixok_replies : (s.setPixok v).replies = s.replies := rfl

end

/-! ### takeFault -/

section
variable (s : State) (r : Raise)

@[simp] theorem State.takeFault_build : (s.takeFault r).build = s.build := rfl
@[simp] theorem State.takeFault_msize : (s.takeFault r).msize = s.msize := rfl
@[simp] theorem State.takeFault_rows : (s.takeFault r).rows = s.rows := rfl
@[simp] theorem State.takeFault_cols : (s.takeFault r).cols = s.cols := rfl
@[simp] theorem State.takeFault_ch : (s.takeFault r).ch = s.ch := rfl
@[simp] theorem State.takeFault_pixok : (s.takeFault r).pixok = s.pixok := rfl
@[simp] theorem State.takeFault_err : (s.takeFault r).err = r.kind.code := rfl
@[simp] theorem State.takeFault_errstg : (s.takeFault r).errstg = r.stage.number := rfl
@[simp] theorem State.takeFault_pix : (s.takeFault r).pix = s.pix := rfl
@[simp] theorem State.takeFault_bayer : (s.takeFault r).bayer = s.bayer := rfl
@[simp] theorem State.takeFault_lum : (s.takeFault r).lum = s.lum := rfl
@[simp] theorem State.takeFault_dbit : (s.takeFault r).dbit = s.dbit := rfl
@[simp] theorem State.takeFault_sbit : (s.takeFault r).sbit = s.sbit := rfl
@[simp] theorem State.takeFault_height : (s.takeFault r).height = s.height := rfl
@[simp] theorem State.takeFault_width : (s.takeFault r).width = s.width := rfl
@[simp] theorem State.takeFault_out : (s.takeFault r).out = s.out := rfl
@[simp] theorem State.takeFault_txt : (s.takeFault r).txt = s.txt := rfl
@[simp] theorem State.takeFault_powerOns : (s.takeFault r).powerOns = s.powerOns := rfl
@[simp] theorem State.takeFault_input : (s.takeFault r).input = s.input := rfl
@[simp] theorem State.takeFault_replies : (s.takeFault r).replies = s.replies := rfl

end

/-! ### softReset -/

section
variable (s : State)

@[simp] theorem State.softReset_build : s.softReset.build = s.build := rfl
@[simp] theorem State.softReset_msize : s.softReset.msize = 16#16 := rfl
@[simp] theorem State.softReset_rows : s.softReset.rows = 0#16 := rfl
@[simp] theorem State.softReset_cols : s.softReset.cols = 0#16 := rfl
@[simp] theorem State.softReset_ch : s.softReset.ch = 3#8 := rfl
@[simp] theorem State.softReset_pixok : s.softReset.pixok = 0#1 := rfl
@[simp] theorem State.softReset_err : s.softReset.err = 0#3 := rfl
@[simp] theorem State.softReset_errstg : s.softReset.errstg = 0#3 := rfl
@[simp] theorem State.softReset_pix : s.softReset.pix = s.pix := rfl
@[simp] theorem State.softReset_bayer : s.softReset.bayer = ⟨0#1, 0#16, []⟩ := rfl
@[simp] theorem State.softReset_lum : s.softReset.lum = ⟨0#1, 0#16, 0#16, []⟩ := rfl
@[simp] theorem State.softReset_dbit : s.softReset.dbit = ⟨0#1, 0#16, 0#16, []⟩ := rfl
@[simp] theorem State.softReset_sbit : s.softReset.sbit = ⟨0#1, 0#16, 0#16, []⟩ := rfl
@[simp] theorem State.softReset_height : s.softReset.height = 0#16 := rfl
@[simp] theorem State.softReset_width : s.softReset.width = 0#16 := rfl
@[simp] theorem State.softReset_out : s.softReset.out = s.out := rfl
@[simp] theorem State.softReset_txt : s.softReset.txt = s.txt := rfl
@[simp] theorem State.softReset_powerOns : s.softReset.powerOns = s.powerOns := rfl
@[simp] theorem State.softReset_input : s.softReset.input = s.input := rfl
@[simp] theorem State.softReset_replies : s.softReset.replies = s.replies := rfl

end

/-! ### powerOnReset -/

section
variable (s : State)

@[simp] theorem State.powerOnReset_build : s.powerOnReset.build = s.build := rfl
@[simp] theorem State.powerOnReset_msize : s.powerOnReset.msize = 16#16 := rfl
@[simp] theorem State.powerOnReset_rows : s.powerOnReset.rows = 0#16 := rfl
@[simp] theorem State.powerOnReset_cols : s.powerOnReset.cols = 0#16 := rfl
@[simp] theorem State.powerOnReset_ch : s.powerOnReset.ch = 3#8 := rfl
@[simp] theorem State.powerOnReset_pixok : s.powerOnReset.pixok = 0#1 := rfl
@[simp] theorem State.powerOnReset_err : s.powerOnReset.err = 0#3 := rfl
@[simp] theorem State.powerOnReset_errstg : s.powerOnReset.errstg = 0#3 := rfl
@[simp] theorem State.powerOnReset_pix : s.powerOnReset.pix = [] := rfl
@[simp] theorem State.powerOnReset_bayer : s.powerOnReset.bayer = ⟨0#1, 0#16, []⟩ := rfl
@[simp] theorem State.powerOnReset_lum : s.powerOnReset.lum = ⟨0#1, 0#16, 0#16, []⟩ := rfl
@[simp] theorem State.powerOnReset_dbit : s.powerOnReset.dbit = ⟨0#1, 0#16, 0#16, []⟩ := rfl
@[simp] theorem State.powerOnReset_sbit : s.powerOnReset.sbit = ⟨0#1, 0#16, 0#16, []⟩ := rfl
@[simp] theorem State.powerOnReset_height : s.powerOnReset.height = 0#16 := rfl
@[simp] theorem State.powerOnReset_width : s.powerOnReset.width = 0#16 := rfl
@[simp] theorem State.powerOnReset_out : s.powerOnReset.out = [] := rfl
@[simp] theorem State.powerOnReset_txt : s.powerOnReset.txt = [] := rfl
@[simp] theorem State.powerOnReset_powerOns : s.powerOnReset.powerOns = s.powerOns + 1 := rfl
@[simp] theorem State.powerOnReset_input : s.powerOnReset.input = s.input := rfl
@[simp] theorem State.powerOnReset_replies : s.powerOnReset.replies = s.replies := rfl

end

/-! ### reply -/

section
variable (s : State) (r : Reply)

@[simp] theorem State.reply_build : (s.reply r).build = s.build := rfl
@[simp] theorem State.reply_msize : (s.reply r).msize = s.msize := rfl
@[simp] theorem State.reply_rows : (s.reply r).rows = s.rows := rfl
@[simp] theorem State.reply_cols : (s.reply r).cols = s.cols := rfl
@[simp] theorem State.reply_ch : (s.reply r).ch = s.ch := rfl
@[simp] theorem State.reply_pixok : (s.reply r).pixok = s.pixok := rfl
@[simp] theorem State.reply_err : (s.reply r).err = s.err := rfl
@[simp] theorem State.reply_errstg : (s.reply r).errstg = s.errstg := rfl
@[simp] theorem State.reply_pix : (s.reply r).pix = s.pix := rfl
@[simp] theorem State.reply_bayer : (s.reply r).bayer = s.bayer := rfl
@[simp] theorem State.reply_lum : (s.reply r).lum = s.lum := rfl
@[simp] theorem State.reply_dbit : (s.reply r).dbit = s.dbit := rfl
@[simp] theorem State.reply_sbit : (s.reply r).sbit = s.sbit := rfl
@[simp] theorem State.reply_height : (s.reply r).height = s.height := rfl
@[simp] theorem State.reply_width : (s.reply r).width = s.width := rfl
@[simp] theorem State.reply_out : (s.reply r).out = s.out := rfl
@[simp] theorem State.reply_txt : (s.reply r).txt = s.txt := rfl
@[simp] theorem State.reply_powerOns : (s.reply r).powerOns = s.powerOns := rfl
@[simp] theorem State.reply_input : (s.reply r).input = s.input := rfl
@[simp] theorem State.reply_replies : (s.reply r).replies = s.replies ++ [r] := rfl

end

/-! ### withInput -/

section
variable (s : State) (l : List HostAction)

@[simp] theorem State.withInput_build : (s.withInput l).build = s.build := rfl
@[simp] theorem State.withInput_msize : (s.withInput l).msize = s.msize := rfl
@[simp] theorem State.withInput_rows : (s.withInput l).rows = s.rows := rfl
@[simp] theorem State.withInput_cols : (s.withInput l).cols = s.cols := rfl
@[simp] theorem State.withInput_ch : (s.withInput l).ch = s.ch := rfl
@[simp] theorem State.withInput_pixok : (s.withInput l).pixok = s.pixok := rfl
@[simp] theorem State.withInput_err : (s.withInput l).err = s.err := rfl
@[simp] theorem State.withInput_errstg : (s.withInput l).errstg = s.errstg := rfl
@[simp] theorem State.withInput_pix : (s.withInput l).pix = s.pix := rfl
@[simp] theorem State.withInput_bayer : (s.withInput l).bayer = s.bayer := rfl
@[simp] theorem State.withInput_lum : (s.withInput l).lum = s.lum := rfl
@[simp] theorem State.withInput_dbit : (s.withInput l).dbit = s.dbit := rfl
@[simp] theorem State.withInput_sbit : (s.withInput l).sbit = s.sbit := rfl
@[simp] theorem State.withInput_height : (s.withInput l).height = s.height := rfl
@[simp] theorem State.withInput_width : (s.withInput l).width = s.width := rfl
@[simp] theorem State.withInput_out : (s.withInput l).out = s.out := rfl
@[simp] theorem State.withInput_txt : (s.withInput l).txt = s.txt := rfl
@[simp] theorem State.withInput_powerOns : (s.withInput l).powerOns = s.powerOns := rfl
@[simp] theorem State.withInput_input : (s.withInput l).input = l := rfl
@[simp] theorem State.withInput_replies : (s.withInput l).replies = s.replies := rfl

end

end Sys2Proof.Machine
end

