-- ==== Sys2Proof/Laws/Grid.lean ====
section
/-! SUPPORT. The grid memories: what a built grid holds (R7, R32). -/

namespace Sys2Proof.Machine

/-- A built grid holds `f i j` inside its bounds. -/
theorem Grid.read?_build {w : Nat} {r c : Nat} {f : Nat → Nat → BitVec w} {i j : Nat} (hi : i < r) (hj : j < c) :
    Grid.read? (Grid.build r c f) i j = some (f i j) := by
  simp [Grid.read?, Grid.build, hi, hj]

/-- A built grid holds nothing outside its bounds. -/
theorem Grid.read?_build_none {w : Nat} {r c : Nat} {f : Nat → Nat → BitVec w} {i j : Nat} (h : ¬ (i < r ∧ j < c)) :
    Grid.read? (Grid.build r c f) i j = none := by
  by_cases hi : i < r
  · have hj : ¬ j < c := fun hj => h ⟨hi, hj⟩
    simp [Grid.read?, Grid.build, hi, hj]
  · simp [Grid.read?, Grid.build, hi]

theorem Grid.hasShape_build {w : Nat} (r c : Nat) (f : Nat → Nat → BitVec w) :
    Grid.hasShape (Grid.build r c f) r c := by
  constructor
  · simp [Grid.build]
  · intro row h
    obtain ⟨i, -, rfl⟩ := List.mem_map.1 h
    simp

/-- Two built grids are equal when they are built from functions that agree inside the bounds. -/
theorem Grid.build_congr {w : Nat} {r c : Nat} {f g : Nat → Nat → BitVec w}
    (h : ∀ i < r, ∀ j < c, f i j = g i j) : Grid.build r c f = Grid.build r c g := by
  refine List.map_congr_left fun i hi => List.map_congr_left fun j hj => ?_
  exact h i (List.mem_range.1 hi) j (List.mem_range.1 hj)

theorem Grid.mem_build {w : Nat} {r c : Nat} {f : Nat → Nat → BitVec w} {row : List (BitVec w)} {v : BitVec w}
    (h : row ∈ Grid.build r c f) (hv : v ∈ row) : ∃ i < r, ∃ j < c, v = f i j := by
  obtain ⟨i, hi, rfl⟩ := List.mem_map.1 h
  obtain ⟨j, hj, rfl⟩ := List.mem_map.1 hv
  exact ⟨i, List.mem_range.1 hi, j, List.mem_range.1 hj, rfl⟩

section
variable (s : State)

theorem State.bayerAt_putBayer {n : Half} {r c : Nat} {f : Nat → Nat → BitVec 12} {a b : Nat} (ha : a < r) (hb : b < c) :
    (s.putBayer n (Grid.build r c f)).bayerAt a b = f a b := by
  simp [State.bayerAt, Grid.read?_build ha hb]

theorem State.lumAt_putLum {r c : Half} {m n : Nat} {f : Nat → Nat → BitVec 22} {i j : Nat} (hi : i < m) (hj : j < n) :
    (s.putLum r c (Grid.build m n f)).lumAt i j = f i j := by
  simp [State.lumAt, Grid.read?_build hi hj]

theorem State.dbitAt_putDbit {r c : Half} {m n : Nat} {f : Nat → Nat → Bit} {i j : Nat} (hi : i < m) (hj : j < n) :
    (s.putDbit r c (Grid.build m n f)).dbitAt i j = f i j := by
  simp [State.dbitAt, Grid.read?_build hi hj]

theorem State.sbitAt_putSbit {r c : Half} {m n : Nat} {f : Nat → Nat → Bit} {i j : Nat} (hi : i < m) (hj : j < n) :
    (s.putSbit r c (Grid.build m n f)).sbitAt i j = f i j := by
  simp [State.sbitAt, Grid.read?_build hi hj]

end

end Sys2Proof.Machine
end

