-- ==== Sys2Proof/Laws/Luma.lean ====
section
/-! SUPPORT. Bounds on samples, luminance numerators and sample addresses. -/

namespace Sys2Proof.Machine

theorem sample_le (s : State) (i j k : Nat) : s.sample i j k ≤ 255 := by
  have := (s.pixByte (pixAddr s.cols.toNat i j k)).isLt
  unfold State.sample; omega

theorem lumNum_le {r g b : Nat} (hr : r ≤ 255) (hg : g ≤ 255) (hb : b ≤ 255) : lumNum r g b ≤ 2549745 := by
  unfold lumNum weightR weightG weightB; omega

/-- The address of a sample of the grid is below its number of samples. -/
theorem pixAddr_lt {rows cols i j k : Nat} (hi : i < rows) (hj : j < cols) (hk : k < 3) :
    pixAddr cols i j k < 3 * rows * cols := by
  have : i * cols + j + 1 ≤ rows * cols := by
    calc i * cols + j + 1 ≤ i * cols + cols := by omega
      _ = (i + 1) * cols := by ring
      _ ≤ rows * cols := Nat.mul_le_mul_right _ hi
  have e : 3 * rows * cols = 3 * (rows * cols) := by ring
  unfold pixAddr channels; omega

end Sys2Proof.Machine
end

