-- ==== Sys2Proof/Laws/Memory.lean ====
section
/-! SUPPORT. The pixel memory: read after write, and the canonical form is kept (R19, R38). -/

namespace Sys2Proof.Machine

theorem Memory.read?_write (m : Memory) (a : Nat) (v : Byte) (b : Nat) :
    Memory.read? (Memory.write m a v) b = if b = a then some v else Memory.read? m b := by
  induction m with
  | nil => simp [Memory.write, Memory.read?]
  | cons e m ih =>
    obtain ⟨c, u⟩ := e
    unfold Memory.write
    split
    · rfl
    · split
      · subst_vars
        simp only [Memory.read?]
        split <;> rfl
      · simp only [Memory.read?, ih]
        split <;> split <;> simp_all

/-- The addresses a write leaves listed: those listed before and the one written. -/
theorem Memory.mem_write {m : Memory} {a : Nat} {v : Byte} {e : Host.Cell} (h : e ∈ Memory.write m a v) :
    e = (a, v) ∨ e ∈ m := by
  induction m with
  | nil => simpa [Memory.write] using h
  | cons d m ih =>
    obtain ⟨c, u⟩ := d
    unfold Memory.write at h
    split at h
    · simpa using h
    · split at h
      · rcases List.mem_cons.1 h with h | h
        · exact .inl h
        · exact .inr (List.mem_cons_of_mem _ h)
      · rcases List.mem_cons.1 h with h | h
        · exact .inr (h ▸ List.mem_cons_self)
        · exact (ih h).imp id (List.mem_cons_of_mem _)

/-- The head of a written memory is the address written or the head there was. -/
theorem Memory.wf_cons {a : Nat} {v : Byte} {m : Memory} :
    Memory.wf ((a, v) :: m) = true ↔ (∀ e ∈ m.head?, a < e.1) ∧ Memory.wf m = true := by
  cases m with
  | nil => simp [Memory.wf]
  | cons e m => obtain ⟨b, u⟩ := e; simp [Memory.wf]

theorem Memory.head_write {m : Memory} {a : Nat} {v : Byte} {e : Host.Cell} (h : e ∈ (Memory.write m a v).head?) :
    e.1 = a ∨ ∃ d ∈ m.head?, e.1 = d.1 := by
  cases m with
  | nil => simp [Memory.write] at h; exact .inl (by rw [← h])
  | cons d m =>
    obtain ⟨c, u⟩ := d
    unfold Memory.write at h
    split at h
    · simp at h; exact .inl (by rw [← h])
    · split at h
      · simp at h; exact .inl (by rw [← h])
      · simp at h; exact .inr ⟨(c, u), by simp, by rw [← h]⟩

/-- Every write keeps the canonical form. -/
theorem Memory.wf_write {m : Memory} (a : Nat) (v : Byte) (h : Memory.wf m = true) :
    Memory.wf (Memory.write m a v) = true := by
  induction m with
  | nil => rfl
  | cons d m ih =>
    obtain ⟨c, u⟩ := d
    have hc := Memory.wf_cons.1 h
    unfold Memory.write
    split
    · exact Memory.wf_cons.2 ⟨by simpa using ‹a < c›, h⟩
    · split
      · subst_vars; exact Memory.wf_cons.2 hc
      · refine Memory.wf_cons.2 ⟨fun e he => ?_, ih hc.2⟩
        rcases Memory.head_write he with h1 | ⟨d, hd, h1⟩
        · omega
        · have := hc.1 d hd; omega

/-- The reset memory has the canonical form. -/
theorem Memory.wf_resetOf (b : Build) : Memory.wf (State.resetOf b).pix = true := rfl

/-- A host write changes the reading of its own byte alone (R38). -/
theorem State.pixByte_writePix (s : State) (a : Nat) (v : Byte) (b : Nat) :
    (s.writePix a v).pixByte b = if b = a then v else s.pixByte b := by
  simp only [State.pixByte, State.writePix_pix, State.writePix_powerOns, Memory.read?_write]
  split <;> rfl

end Sys2Proof.Machine
end

