-- ==== Sys2Proof/Laws/Pack.lean ====
section
/-! SUPPORT. Groups and their text: the bounds of R86, and that the text PACK emits is the text of the frame it emits
(R27, R86, R89, R90). -/

namespace Sys2Proof.Machine

theorem nGroups_bounds {rows k : Nat} (h : k < nGroups rows) : 8 * k < rows := by
  unfold nGroups groupRows at h; omega

theorem groupBits_bounds {rows k : Nat} (h : k < nGroups rows) : 1 ≤ groupBits rows k ∧ groupBits rows k ≤ 8 := by
  have := nGroups_bounds h
  unfold groupBits groupRows; omega

theorem groupBits_le (rows k : Nat) : groupBits rows k ≤ 8 := by unfold groupBits groupRows; omega

/-- A sum of bits weighted by powers of two, most significant first, is below 2^n. -/
theorem sum_bits_lt (n : Nat) (f : Nat → Nat) (hf : ∀ t < n, f t ≤ 1) :
    ((List.range n).map fun t => f t * 2 ^ (n - 1 - t)).sum < 2 ^ n := by
  induction n generalizing f with
  | zero => simp
  | succ n ih =>
    rw [List.range_succ_eq_map, List.map_cons, List.map_map, List.sum_cons]
    have h0 := hf 0 (by omega)
    have h1 := ih (fun t => f (t + 1)) (fun t ht => hf (t + 1) (by omega))
    have e : ((fun t => f t * 2 ^ (n + 1 - 1 - t)) ∘ Nat.succ) = fun t => f (t + 1) * 2 ^ (n - 1 - t) := by
      funext t
      simp only [Function.comp, Nat.succ_eq_add_one]
      congr 2
      omega
    rw [e]
    have e2 : f 0 * 2 ^ (n + 1 - 1 - 0) ≤ 2 ^ n := by
      calc f 0 * 2 ^ (n + 1 - 1 - 0) ≤ 1 * 2 ^ n := Nat.mul_le_mul h0 (by simp)
        _ = 2 ^ n := by simp
    rw [pow_succ]; omega

theorem bit_toNat_le (b : Bit) : b.toNat ≤ 1 := by have := b.isLt; omega

/-- A group value fits its bits (R86). -/
theorem groupVal_lt (s : State) (col k : Nat) : s.groupVal col k < 2 ^ groupBits s.sbit.rows.toNat k := by
  unfold State.groupVal
  exact sum_bits_lt _ (fun t => (s.sbitAt (groupRows * k + t) col).toNat) fun t _ => bit_toNat_le _

theorem groupVal_lt_256 (s : State) (col k : Nat) : s.groupVal col k < 256 :=
  (groupVal_lt s col k).trans_le (Nat.pow_le_pow_right (by omega) (groupBits_le _ _))

/-- The byte of a group is its value: nothing is cut off (R6, R86). -/
theorem groupsOf_values (s : State) (col : Nat) :
    (s.groupsOf col).map (fun g => g.value.toNat) =
      (List.range (nGroups s.sbit.rows.toNat)).map fun k => s.groupVal col k := by
  unfold State.groupsOf
  rw [List.map_map]
  refine List.map_congr_left fun k _ => ?_
  simpa using Nat.mod_eq_of_lt (groupVal_lt_256 s col k)

/-- The text PACK emits is the text of the frame it emits (R27). -/
theorem packText_eq (s : State) : s.packText = s.packFrame.text := by
  unfold State.packText Frame.text State.packFrame
  rw [List.flatMap_map]
  refine List.flatMap_congr fun c _ => ?_
  simp only [State.line, Column.text, State.columnRecord, groupsOf_values]

/-- The frame PACK emits is well formed (R26). -/
theorem packFrame_inv (s : State) : s.packFrame.inv := by
  constructor
  · simp [State.packFrame, State.columnRecord, State.groupsOf, Function.comp_def]
  · intro c hc g hg
    obtain ⟨c', -, rfl⟩ := List.mem_map.1 hc
    obtain ⟨k, hk, rfl⟩ := List.mem_map.1 hg
    have hk := groupBits_bounds (List.mem_range.1 hk)
    refine ⟨hk.1, hk.2, ?_⟩
    simp only [BitVec.toNat_ofNat]
    exact (Nat.mod_le _ _).trans_lt (groupVal_lt s _ k)

@[simp] theorem textOf_append (l : List Frame) (f : Frame) : textOf (l ++ [f]) = textOf l ++ f.text := by
  simp [textOf]

end Sys2Proof.Machine
end

