-- ==== Sys2Proof/Laws/PerInstr.lean ====
section
/-! SUPPORT. One lemma per command: the command's word lies in the row of rule R47 it is listed under. -/

open Sys2Proof

/-- A word with a 16-bit immediate in its low half, masked to its upper half, is its opcode alone. -/
theorem Sys2Proof.imm16_row (op : Byte) (m w : Word) (h : m = 0xFFFF0000#32 ∧ w = op ++ 0#24) (v : Half) :
    ((op ++ v.zeroExtend 24 : BitVec 32) &&& m) = w := by
  obtain ⟨rfl, rfl⟩ := h
  refine BitVec.eq_of_getLsbD_eq fun k hk => ?_
  rw [BitVec.getLsbD_and, BitVec.getLsbD_append, BitVec.getLsbD_append]
  interval_cases k <;> simp

namespace Sys2Proof.Laws.EncodesInItsRow

/-- The word of a command, masked by its row's mask, is its row's match (R47). -/
def Statement (i : Instr) : Prop := encode i &&& i.mnemonic.maskWord = i.mnemonic.matchWord

theorem nop : Statement .nop := by unfold Statement; decide

theorem setn (imm16 : Half) : Statement (.setn imm16) :=
  imm16_row 0x01#8 0xFFFF0000#32 0x01000000#32 ⟨rfl, rfl⟩ imm16

theorem setrows (imm16 : Half) : Statement (.setrows imm16) :=
  imm16_row 0x02#8 0xFFFF0000#32 0x02000000#32 ⟨rfl, rfl⟩ imm16

theorem setcols (imm16 : Half) : Statement (.setcols imm16) :=
  imm16_row 0x03#8 0xFFFF0000#32 0x03000000#32 ⟨rfl, rfl⟩ imm16

theorem setch (imm8 : Byte) : Statement (.setch imm8) := by revert imm8; unfold Statement; decide

theorem pixok (imm1 : Bit) : Statement (.pixok imm1) := by revert imm1; unfold Statement; decide

theorem gen : Statement .gen := by unfold Statement; decide

theorem luma : Statement .luma := by unfold Statement; decide

theorem dither : Statement .dither := by unfold Statement; decide

theorem invert : Statement .invert := by unfold Statement; decide

theorem pack : Statement .pack := by unfold Statement; decide

theorem convert : Statement .convert := by unfold Statement; decide

theorem rst : Statement .rst := by unfold Statement; decide

end Sys2Proof.Laws.EncodesInItsRow
end

