-- ==== Sys2Proof/Laws/Stages.lean ====
section
/-! SUPPORT. Once for each stage: everything it can do. When it answers `.ok t`, its checks held and `t` is this; when
it answers `.error r`, `r` is the first check that failed (R63, R71, R76, R80, R83, R109). And what dispatch and the
host's actions come to. -/

namespace Sys2Proof.Machine

/-- A one-bit value that is not 0 is 1. -/
theorem bit_ne_zero {b : Bit} : b ≠ 0#1 ↔ b = 1#1 := by revert b; decide

theorem bit_ne_one {b : Bit} : b ≠ 1#1 ↔ b = 0#1 := by revert b; decide

theorem runStages_nil (s : State) : runStages [] s = s := rfl

theorem runStages_ok {f : State → Except Raise State} {fs : List (State → Except Raise State)} {s t : State}
    (h : f s = .ok t) : runStages (f :: fs) s = runStages fs t := by simp [runStages, h]

theorem runStages_error {f : State → Except Raise State} {fs : List (State → Except Raise State)} {s : State}
    {r : Raise} (h : f s = .error r) : runStages (f :: fs) s = s.takeFault r := by simp [runStages, h]

theorem tagMatches_iff {w : Nat} (s : State) (p : Plane w) :
    s.tagMatches p = true ↔ p.rows = s.rows ∧ p.cols = s.cols := by simp [State.tagMatches]

theorem tagMatches_false_iff {w : Nat} (s : State) (p : Plane w) :
    s.tagMatches p = false ↔ p.rows ≠ s.rows ∨ p.cols ≠ s.cols := by
  rw [← Bool.not_eq_true, tagMatches_iff]; tauto

theorem dimensionsLegal_iff (s : State) : s.dimensionsLegal = true ↔
    1 ≤ s.rows.toNat ∧ s.rows.toNat ≤ s.build.maxRows ∧ 1 ≤ s.cols.toNat ∧ s.cols.toNat ≤ s.build.maxCols := by
  simp [State.dimensionsLegal, and_assoc]

theorem genStage_ok {s t : State} : genStage s = .ok t ↔
    isValidN s.msize.toNat = true ∧ t = s.putBayer s.msize (genGrid s.msize.toNat) := by
  unfold genStage
  split
  · simp only [*, true_and, Except.ok.injEq, @eq_comm _ _ t]
  · simp [*]

theorem genStage_error {s : State} {r : Raise} : genStage s = .error r ↔
    isValidN s.msize.toNat = false ∧ r = ⟨.invalidParameter, .gen⟩ := by
  unfold genStage
  split
  · simp [*]
  · simp only [Bool.not_eq_true] at *
    simp only [*, true_and, Except.error.injEq, @eq_comm _ _ r]

theorem lumaStage_ok {s t : State} : lumaStage s = .ok t ↔
    s.pixok = 1#1 ∧ s.ch = 3#8 ∧ s.dimensionsLegal = true ∧ t = s.putLum s.rows s.cols s.lumGrid := by
  unfold lumaStage channels
  split
  · rename_i h; simp [h]
  · rename_i h; rw [← ne_eq, bit_ne_zero] at h
    split
    · rename_i h2; simp only [reduceCtorEq, false_iff]; exact fun h3 => h2 h3.2.1
    · rename_i h2; rw [ne_eq, not_not] at h2
      split
      · rename_i h3; simp [h3]
      · rename_i h3; rw [Bool.not_eq_false] at h3
        simp only [h, h3, true_and, Except.ok.injEq, @eq_comm _ _ t]
        exact ⟨fun h4 => ⟨h2, h4⟩, fun h4 => h4.2⟩

theorem lumaStage_error {s : State} {r : Raise} : lumaStage s = .error r ↔
    (s.pixok = 0#1 ∧ r = ⟨.malformedInput, .luma⟩) ∨
      (s.pixok = 1#1 ∧ (s.ch ≠ 3#8 ∨ s.dimensionsLegal = false) ∧ r = ⟨.dimensionMismatch, .luma⟩) := by
  unfold lumaStage channels
  split
  · rename_i h; simp [h, @eq_comm _ _ r]
  · rename_i h; rw [← ne_eq, bit_ne_zero] at h
    split
    · rename_i h2
      have h2 : s.ch ≠ 3#8 := h2
      simp [h, h2, @eq_comm _ _ r]
    · rename_i h2; rw [ne_eq, not_not] at h2
      have h2 : s.ch = 3#8 := h2
      split
      · rename_i h3; simp [h, h3, @eq_comm _ _ r]
      · rename_i h3; simp [h, h2, h3]

theorem ditherStage_ok {s t : State} : ditherStage s = .ok t ↔
    s.lum.valid = 1#1 ∧ s.bayer.valid = 1#1 ∧ s.lum.rows = s.rows ∧ s.lum.cols = s.cols ∧ s.bayer.size = s.msize ∧
      t = s.putDbit s.lum.rows s.lum.cols (Grid.build s.lum.rows.toNat s.lum.cols.toNat s.ditherBit) := by
  unfold ditherStage
  split
  · rename_i h; rcases h with h | h <;> simp [h]
  · rename_i h; rw [not_or, ← ne_eq, ← ne_eq, bit_ne_zero, bit_ne_zero] at h
    split
    · rename_i h2; rw [tagMatches_false_iff] at h2
      simp only [reduceCtorEq, false_iff]; tauto
    · rename_i h2; rw [Bool.not_eq_false, tagMatches_iff] at h2
      split
      · rename_i h3; simp only [reduceCtorEq, false_iff]; tauto
      · rename_i h3; rw [ne_eq, not_not] at h3
        simp only [h, h2, h3, true_and, Except.ok.injEq, @eq_comm _ _ t]

theorem ditherStage_error {s : State} {r : Raise} : ditherStage s = .error r ↔
    ((s.lum.valid = 0#1 ∨ s.bayer.valid = 0#1) ∧ r = ⟨.notReady, .dither⟩) ∨
      (s.lum.valid = 1#1 ∧ s.bayer.valid = 1#1 ∧
        (s.lum.rows ≠ s.rows ∨ s.lum.cols ≠ s.cols ∨ s.bayer.size ≠ s.msize) ∧ r = ⟨.dimensionMismatch, .dither⟩) := by
  unfold ditherStage
  split
  · rename_i h; rcases h with h | h <;> simp [h, @eq_comm _ _ r]
  · rename_i h; rw [not_or, ← ne_eq, ← ne_eq, bit_ne_zero, bit_ne_zero] at h
    obtain ⟨h, h'⟩ := h
    split
    · rename_i h2; rw [tagMatches_false_iff] at h2
      have h3 : s.lum.rows ≠ s.rows ∨ s.lum.cols ≠ s.cols ∨ s.bayer.size ≠ s.msize := by tauto
      simp [h, h', h3, @eq_comm _ _ r, -ne_eq]
    · rename_i h2; rw [Bool.not_eq_false, tagMatches_iff] at h2
      split
      · rename_i h3; simp [h, h', h2, h3, @eq_comm _ _ r]
      · rename_i h3; rw [ne_eq, not_not] at h3; simp [h, h', h2, h3]

theorem invertStage_ok {s t : State} : invertStage s = .ok t ↔
    s.dbit.valid = 1#1 ∧ s.dbit.rows = s.rows ∧ s.dbit.cols = s.cols ∧
      t = s.putSbit s.dbit.rows s.dbit.cols (Grid.build s.dbit.rows.toNat s.dbit.cols.toNat s.storedBit) := by
  unfold invertStage
  split
  · rename_i h; simp [h]
  · rename_i h; rw [← ne_eq, bit_ne_zero] at h
    split
    · rename_i h2; rw [tagMatches_false_iff] at h2
      simp only [reduceCtorEq, false_iff]; tauto
    · rename_i h2; rw [Bool.not_eq_false, tagMatches_iff] at h2
      simp only [h, h2, true_and, Except.ok.injEq, @eq_comm _ _ t]

theorem invertStage_error {s : State} {r : Raise} : invertStage s = .error r ↔
    (s.dbit.valid = 0#1 ∧ r = ⟨.notReady, .invert⟩) ∨
      (s.dbit.valid = 1#1 ∧ (s.dbit.rows ≠ s.rows ∨ s.dbit.cols ≠ s.cols) ∧ r = ⟨.dimensionMismatch, .invert⟩) := by
  unfold invertStage
  split
  · rename_i h; simp [h, @eq_comm _ _ r]
  · rename_i h; rw [← ne_eq, bit_ne_zero] at h
    split
    · rename_i h2; rw [tagMatches_false_iff] at h2
      simp only [h, h2]; simp [eq_comm]
    · rename_i h2; rw [Bool.not_eq_false, tagMatches_iff] at h2
      simp [h, h2]

theorem packStage_ok {s t : State} : packStage s = .ok t ↔
    s.sbit.valid = 1#1 ∧ s.sbit.rows = s.rows ∧ s.sbit.cols = s.cols ∧ t = s.emit s.packFrame s.packText := by
  unfold packStage
  split
  · rename_i h; simp [h]
  · rename_i h; rw [← ne_eq, bit_ne_zero] at h
    split
    · rename_i h2; rw [tagMatches_false_iff] at h2
      simp only [reduceCtorEq, false_iff]; tauto
    · rename_i h2; rw [Bool.not_eq_false, tagMatches_iff] at h2
      simp only [h, h2, true_and, Except.ok.injEq, @eq_comm _ _ t]

theorem packStage_error {s : State} {r : Raise} : packStage s = .error r ↔
    (s.sbit.valid = 0#1 ∧ r = ⟨.notReady, .pack⟩) ∨
      (s.sbit.valid = 1#1 ∧ (s.sbit.rows ≠ s.rows ∨ s.sbit.cols ≠ s.cols) ∧ r = ⟨.dimensionMismatch, .pack⟩) := by
  unfold packStage
  split
  · rename_i h; simp [h, @eq_comm _ _ r]
  · rename_i h; rw [← ne_eq, bit_ne_zero] at h
    split
    · rename_i h2; rw [tagMatches_false_iff] at h2
      simp only [h, h2]; simp [eq_comm]
    · rename_i h2; rw [Bool.not_eq_false, tagMatches_iff] at h2
      simp [h, h2]

/-- What running stages comes to: they all answered, or one of them raised on the state the ones before it left. -/
theorem runStages_cases (f : State → Except Raise State) (fs : List (State → Except Raise State)) (s : State) :
    (∃ t, f s = .ok t ∧ runStages (f :: fs) s = runStages fs t) ∨
      ∃ r, f s = .error r ∧ runStages (f :: fs) s = s.takeFault r := by
  cases h : f s with
  | ok t => exact .inl ⟨t, rfl, runStages_ok h⟩
  | error r => exact .inr ⟨r, rfl, runStages_error h⟩

/-- Everything dispatch can do with a word (R96). -/
theorem present_cases (w : Word) (s : State) :
    (w = rstWord ∧ present w s = .next s.softReset) ∨
      (w ≠ rstWord ∧ s.err ≠ 0#3 ∧ present w s = .next s) ∨
      (w ≠ rstWord ∧ s.err = 0#3 ∧ ∃ e, decode w = .error e ∧
        present w s = .next (s.takeFault ⟨.illegalCommand, .commandDecode⟩)) ∨
      (w ≠ rstWord ∧ s.err = 0#3 ∧ ∃ i, decode w = .ok i ∧ present w s = exec i s) := by
  by_cases hw : w = rstWord
  · exact .inl ⟨hw, by simp [present, hw, exec, execRst]⟩
  · by_cases he : s.err = 0#3
    · cases hd : decode w with
      | error e => exact .inr (.inr (.inl ⟨hw, he, e, rfl, by simp [present, hw, he, hd]⟩))
      | ok i => exact .inr (.inr (.inr ⟨hw, he, i, rfl, by simp [present, hw, he, hd]⟩))
    · exact .inr (.inl ⟨hw, he, by simp [present, hw, he]⟩)

/-- Every command completes: `exec` always answers a next state. -/
theorem exec_next (i : Instr) (s : State) : ∃ t, exec i s = .next t := by
  cases i <;> exact ⟨_, rfl⟩

end Sys2Proof.Machine
end

