-- ==== Sys2Proof/Laws/Step.lean ====
section
/-! SUPPORT. Once: everything a command and a step can do, and what running stages keeps. Later proofs cite these
instead of unfolding exec and step. -/

namespace Sys2Proof.Machine

/-- The five stages. -/
def stages : List (State → Except Raise State) := [genStage, lumaStage, ditherStage, invertStage, packStage]

/-- A stage command alone: the stage answered, or it raised (R106). -/
theorem runStages_single {f : State → Except Raise State} {s t : State} (h : runStages [f] s = t) :
    f s = .ok t ∨ ∃ r, f s = .error r ∧ t = s.takeFault r := by
  rcases runStages_cases f [] s with ⟨u, hu, e⟩ | ⟨r, hr, e⟩
  · left; rw [hu, ← h, e, runStages_nil]
  · right; exact ⟨r, hr, by rw [← h, e]⟩

/-- A stage on the state with another input: the same answer (R18: the host's sequence is no state of the block). -/
theorem stage_withInput {f : State → Except Raise State} (hf : f ∈ stages) (s : State) (l : List HostAction) :
    (∀ t, f s = .ok t → f (s.withInput l) = .ok (t.withInput l)) ∧
      ∀ r, f s = .error r → f (s.withInput l) = .error r := by
  simp only [stages, List.mem_cons, List.not_mem_nil, or_false] at hf
  rcases hf with rfl | rfl | rfl | rfl | rfl
  · refine ⟨fun t h => ?_, fun r h => by have := genStage_error.1 h; exact genStage_error.2 this⟩
    obtain ⟨h1, rfl⟩ := genStage_ok.1 h
    exact genStage_ok.2 ⟨h1, rfl⟩
  · refine ⟨fun t h => ?_, fun r h => by have := lumaStage_error.1 h; exact lumaStage_error.2 this⟩
    obtain ⟨h1, h2, h3, rfl⟩ := lumaStage_ok.1 h
    exact lumaStage_ok.2 ⟨h1, h2, h3, rfl⟩
  · refine ⟨fun t h => ?_, fun r h => by have := ditherStage_error.1 h; exact ditherStage_error.2 this⟩
    obtain ⟨h1, h2, h3, h4, h5, rfl⟩ := ditherStage_ok.1 h
    exact ditherStage_ok.2 ⟨h1, h2, h3, h4, h5, rfl⟩
  · refine ⟨fun t h => ?_, fun r h => by have := invertStage_error.1 h; exact invertStage_error.2 this⟩
    obtain ⟨h1, h2, h3, rfl⟩ := invertStage_ok.1 h
    exact invertStage_ok.2 ⟨h1, h2, h3, rfl⟩
  · refine ⟨fun t h => ?_, fun r h => by have := packStage_error.1 h; exact packStage_error.2 this⟩
    obtain ⟨h1, h2, h3, rfl⟩ := packStage_ok.1 h
    exact packStage_ok.2 ⟨h1, h2, h3, rfl⟩

/-- What running stages keeps: a property that every stage's answer and every raise keep. -/
theorem runStages_keeps {P : State → Prop} {fs : List (State → Except Raise State)}
    (hok : ∀ f ∈ fs, ∀ s t, P s → f s = .ok t → P t)
    (herr : ∀ f ∈ fs, ∀ s r, P s → f s = .error r → P (s.takeFault r)) {s : State} (h : P s) :
    P (runStages fs s) := by
  induction fs generalizing s with
  | nil => exact h
  | cons f fs ih =>
    rcases runStages_cases f fs s with ⟨u, hu, e⟩ | ⟨r, hr, e⟩ <;> rw [e]
    · exact ih (fun g hg => hok g (by simp [hg])) (fun g hg => herr g (by simp [hg])) (hok f (by simp) s u h hu)
    · exact herr f (by simp) s r h hr

/-- Everything a command can do. -/
theorem exec_cases {i : Instr} {s t : State} (h : exec i s = .next t) :
    (i = .nop ∧ t = s) ∨ (∃ v, i = .setn v ∧ t = s.setMsize v) ∨ (∃ v, i = .setrows v ∧ t = s.setRows v) ∨
      (∃ v, i = .setcols v ∧ t = s.setCols v) ∨ (∃ v, i = .setch v ∧ t = s.setCh v) ∨
      (∃ v, i = .pixok v ∧ t = s.setPixok v) ∨
      (i = .gen ∧ (genStage s = .ok t ∨ ∃ r, genStage s = .error r ∧ t = s.takeFault r)) ∨
      (i = .luma ∧ (lumaStage s = .ok t ∨ ∃ r, lumaStage s = .error r ∧ t = s.takeFault r)) ∨
      (i = .dither ∧ (ditherStage s = .ok t ∨ ∃ r, ditherStage s = .error r ∧ t = s.takeFault r)) ∨
      (i = .invert ∧ (invertStage s = .ok t ∨ ∃ r, invertStage s = .error r ∧ t = s.takeFault r)) ∨
      (i = .pack ∧ (packStage s = .ok t ∨ ∃ r, packStage s = .error r ∧ t = s.takeFault r)) ∨
      (i = .convert ∧ t = runStages stages s) ∨ (i = .rst ∧ t = s.softReset) := by
  cases i <;> simp only [exec, execNop, execSetn, execSetrows, execSetcols, execSetch, execPixok, execGen, execLuma,
    execDither, execInvert, execPack, execRst, execConvert, Host.Outcome.next.injEq] at h
  case gen => simp [runStages_single h]
  case luma => simp [runStages_single h]
  case dither => simp [runStages_single h]
  case invert => simp [runStages_single h]
  case pack => simp [runStages_single h]
  all_goals simp [← h, stages]

/-- Everything a step can do. -/
theorem step_cases {s t : State} (h : step s = .next t) :
    (s.input = [] ∧ t = s) ∨
      ∃ a rest, s.input = a :: rest ∧
        ((∃ b v, a = .pixWrite b v ∧ b < s.build.pixcap ∧ t = (s.withInput rest).writePix b v) ∨
          (∃ b, a = .pixRead b ∧ b < s.build.pixcap ∧ t = (s.withInput rest).reply (.pix b (s.pixByte b))) ∨
          (∃ k, a = .regRead k ∧ k < 16 ∧ t = (s.withInput rest).reply (.reg k (s.readReg k))) ∨
          (a = .resetInput ∧ t = (s.withInput rest).powerOnReset) ∨
          (a = .command rstWord ∧ t = (s.withInput rest).softReset) ∨
          (∃ w, a = .command w ∧ w ≠ rstWord ∧ s.err ≠ 0#3 ∧ t = s.withInput rest) ∨
          (∃ w e, a = .command w ∧ w ≠ rstWord ∧ s.err = 0#3 ∧ decode w = .error e ∧
            t = (s.withInput rest).takeFault ⟨.illegalCommand, .commandDecode⟩) ∨
          ∃ w i, a = .command w ∧ w ≠ rstWord ∧ s.err = 0#3 ∧ decode w = .ok i ∧
            exec i (s.withInput rest) = .next t) := by
  unfold step performNext at h
  split at h
  · cases h; exact .inl ⟨‹_›, rfl⟩
  · rename_i a rest hs
    refine .inr ⟨a, rest, hs, ?_⟩
    cases a with
    | pixWrite b v =>
      simp only [performAction] at h
      split at h <;> cases h
      exact .inl ⟨b, v, rfl, ‹_›, rfl⟩
    | pixRead b =>
      simp only [performAction] at h
      split at h <;> cases h
      exact .inr (.inl ⟨b, rfl, ‹_›, rfl⟩)
    | regRead k =>
      simp only [performAction] at h
      split at h <;> cases h
      refine .inr (.inr (.inl ⟨k, rfl, ‹_›, ?_⟩))
      congr 2
    | resetInput =>
      cases h; exact .inr (.inr (.inr (.inl ⟨rfl, rfl⟩)))
    | command w =>
      simp only [performAction] at h
      rcases present_cases w (s.withInput rest) with ⟨rfl, e⟩ | ⟨hw, he, e⟩ | ⟨hw, he, x, hx, e⟩ | ⟨hw, he, i, hi, e⟩ <;>
        rw [e] at h
      · cases h; exact .inr (.inr (.inr (.inr (.inl ⟨rfl, rfl⟩))))
      · cases h; exact .inr (.inr (.inr (.inr (.inr (.inl ⟨w, rfl, hw, he, rfl⟩)))))
      · cases h; exact .inr (.inr (.inr (.inr (.inr (.inr (.inl ⟨w, x, rfl, hw, he, hx, rfl⟩))))))
      · exact .inr (.inr (.inr (.inr (.inr (.inr (.inr ⟨w, i, rfl, hw, he, hi, h⟩))))))

/-- Everything a stage that succeeds can do: write one grid memory, or emit one frame. -/
theorem stage_ok_update {f : State → Except Raise State} (hf : f ∈ stages) {s t : State} (h : f s = .ok t) :
    (∃ n g, t = s.putBayer n g) ∨ (∃ r c g, t = s.putLum r c g) ∨ (∃ r c g, t = s.putDbit r c g) ∨
      (∃ r c g, t = s.putSbit r c g) ∨ ∃ g x, t = s.emit g x := by
  simp only [stages, List.mem_cons, List.not_mem_nil, or_false] at hf
  rcases hf with rfl | rfl | rfl | rfl | rfl
  · obtain ⟨-, rfl⟩ := genStage_ok.1 h; exact .inl ⟨_, _, rfl⟩
  · obtain ⟨-, -, -, rfl⟩ := lumaStage_ok.1 h; exact .inr (.inl ⟨_, _, _, rfl⟩)
  · obtain ⟨-, -, -, -, -, rfl⟩ := ditherStage_ok.1 h; exact .inr (.inr (.inl ⟨_, _, _, rfl⟩))
  · obtain ⟨-, -, -, rfl⟩ := invertStage_ok.1 h; exact .inr (.inr (.inr (.inl ⟨_, _, _, rfl⟩)))
  · obtain ⟨-, -, -, rfl⟩ := packStage_ok.1 h; exact .inr (.inr (.inr (.inr ⟨_, _, rfl⟩)))

/-- A property that each of the step's updates keeps is kept by every step. -/
theorem step_keeps {P : State → Prop} (input : ∀ s l, P s → P (s.withInput l))
    (pixWrite : ∀ s b v, P s → b < s.build.pixcap → P (s.writePix b v)) (reply : ∀ s r, P s → P (s.reply r))
    (powerOn : ∀ s, P s → P s.powerOnReset) (soft : ∀ s, P s → P s.softReset)
    (illegal : ∀ s, P s → P (s.takeFault ⟨.illegalCommand, .commandDecode⟩))
    (config : ∀ s, P s → (∀ v, P (s.setMsize v)) ∧ (∀ v, P (s.setRows v)) ∧ (∀ v, P (s.setCols v)) ∧
      (∀ v, P (s.setCh v)) ∧ ∀ v, P (s.setPixok v))
    (ok : ∀ f ∈ stages, ∀ s t, P s → f s = .ok t → P t)
    (error : ∀ f ∈ stages, ∀ s r, P s → f s = .error r → P (s.takeFault r))
    {s t : State} (h : P s) (hst : step s = .next t) : P t := by
  have one : ∀ f ∈ stages, ∀ s t, P s → (f s = .ok t ∨ ∃ r, f s = .error r ∧ t = s.takeFault r) → P t := by
    rintro f hf s t h (h1 | ⟨r, h1, rfl⟩)
    · exact ok f hf s t h h1
    · exact error f hf s r h h1
  rcases step_cases hst with ⟨-, rfl⟩ | ⟨a, rest, hi, ⟨b, v, rfl, hb, rfl⟩ | ⟨b, rfl, hb, rfl⟩ | ⟨b, rfl, hb, rfl⟩ |
    ⟨rfl, rfl⟩ | ⟨rfl, rfl⟩ | ⟨w, rfl, h1, h2, rfl⟩ | ⟨w, e, rfl, h1, h2, h3, rfl⟩ | ⟨w, i, rfl, h1, h2, h3, h4⟩⟩
  · exact h
  · exact pixWrite _ _ _ (input _ _ h) hb
  · exact reply _ _ (input _ _ h)
  · exact reply _ _ (input _ _ h)
  · exact powerOn _ (input _ _ h)
  · exact soft _ (input _ _ h)
  · exact input _ _ h
  · exact illegal _ (input _ _ h)
  · have h := input s rest h
    have c := config _ h
    rcases exec_cases h4 with ⟨rfl, rfl⟩ | ⟨v, rfl, rfl⟩ | ⟨v, rfl, rfl⟩ | ⟨v, rfl, rfl⟩ | ⟨v, rfl, rfl⟩ |
      ⟨v, rfl, rfl⟩ | ⟨rfl, h1⟩ | ⟨rfl, h1⟩ | ⟨rfl, h1⟩ | ⟨rfl, h1⟩ | ⟨rfl, h1⟩ | ⟨rfl, rfl⟩ | ⟨rfl, rfl⟩
    · exact h
    · exact c.1 v
    · exact c.2.1 v
    · exact c.2.2.1 v
    · exact c.2.2.2.1 v
    · exact c.2.2.2.2 v
    · exact one genStage (by simp [stages]) _ _ h h1
    · exact one lumaStage (by simp [stages]) _ _ h h1
    · exact one ditherStage (by simp [stages]) _ _ h h1
    · exact one invertStage (by simp [stages]) _ _ h h1
    · exact one packStage (by simp [stages]) _ _ h h1
    · exact runStages_keeps ok error h
    · exact soft _ h

end Sys2Proof.Machine
end

