-- ==== Sys2Proof/Tests/Slice0.lean ====
section
/-! SUPPORT. The model's own tests. Expected results are those of spec/95_test_vectors.md or of the rule named; each
statement with hypotheses has a `test_witness_…` theorem, a concrete state and operands that meet them. -/

namespace Sys2Proof.Tests

open Sys2Proof Sys2Proof.Machine Host

/-- The next state of an outcome, where there is one. -/
def next? (o : Outcome State Fault Refusal) : Option State :=
  match o with
  | .next t => some t
  | .fault _ => none
  | .refused _ => none

/-! ### Small states -/

/-- A build with MAX_ROWS = 16 and MAX_COLS = 5, which spec/95 section 1 says is enough for every vector. -/
def smallBuild : Build := ⟨⟨15, by decide⟩, ⟨4, by decide⟩⟩

/-- The reset state of the small build. -/
def small : State := State.resetOf smallBuild

/-- Consecutive bytes of PIX from an address. -/
def bytesFrom : Nat → List Byte → Memory
  | _, [] => []
  | a, v :: vs => (a, v) :: bytesFrom (a + 1) vs

/-- A small state with dimensions, PIXOK = 1 and the given samples. -/
def image (rows cols : Half) (samples : List Byte) : State :=
  { small with rows := rows, cols := cols, pixok := 1#1, pix := bytesFrom 0 samples }

/-- The image of program P7 with MSIZE = 2. -/
def colours : State := { image 2 2 [255, 0, 0, 0, 255, 0, 0, 0, 255, 255, 255, 0] with msize := 2 }

/-- The matrix Gen(2) as BAYER holds it. -/
def matrix2 : Matrix := ⟨1, 2, [[0, 2], [3, 1]]⟩

/-- P7 after GEN and LUMA. -/
def coloursReduced : State := { colours with bayer := matrix2, lum := ⟨1, 2, 2, [[762195, 1496850], [290700, 2259045]]⟩ }

/-- P7 after DITHER and INVERT. -/
def coloursStored : State :=
  { coloursReduced with dbit := ⟨1, 2, 2, [[1, 0], [0, 1]]⟩, sbit := ⟨1, 2, 2, [[0, 1], [1, 0]]⟩ }

/-- The frame of P7. -/
def coloursFrame : Frame := ⟨2, 2, [⟨0, 0, [⟨1, 2⟩]⟩, ⟨1, 1, [⟨2, 2⟩]⟩]⟩

/-- P7 at its end. -/
def coloursDone : State :=
  { coloursStored with
    height := 2, width := 2, out := [coloursFrame]
    txt := [0x30, 0x78, 0x31, 0x0A, 0x30, 0x78, 0x32, 0x0A] }

/-- A small state whose host has one action left. -/
def told (a : HostAction) (s : State) : State := { s with input := [a] }

/-- A fault recorded by GEN. -/
def faulted : State := { small with err := 1, errstg := 1 }

/-! ### Well-formed written commands: each check refuses an ill-formed one (R51) -/

theorem test_wellFormed_refuses_missing_operand : (WrittenCommand.mk .setn none).wellFormed = false := by decide

theorem test_wellFormed_refuses_superfluous_operand : (WrittenCommand.mk .gen (some 0)).wellFormed = false := by decide

theorem test_wellFormed_refuses_large_imm16 :
    (WrittenCommand.mk .setrows (some 65536)).wellFormed = false ∧
      (WrittenCommand.mk .setrows (some 65535)).wellFormed = true := by decide

theorem test_wellFormed_refuses_large_imm8 :
    (WrittenCommand.mk .setch (some 256)).wellFormed = false ∧
      (WrittenCommand.mk .setch (some 255)).wellFormed = true := by decide

theorem test_wellFormed_refuses_large_imm1 :
    (WrittenCommand.mk .pixok (some 2)).wellFormed = false ∧
      (WrittenCommand.mk .pixok (some 1)).wellFormed = true := by decide

/-! ### Decoding: spec/95 section 2.3, every command's word written out from the table of rule R47 -/

theorem test_decode_config :
    decodeTableWord 32 0x00000000 = some .nop ∧ decodeTableWord 32 0x01000010 = some (.setn 16) ∧
      decodeTableWord 32 0x0100FFFF = some (.setn 65535) ∧ decodeTableWord 32 0x0200000A = some (.setrows 10) ∧
      decodeTableWord 32 0x03000003 = some (.setcols 3) ∧ decodeTableWord 32 0x040000FF = some (.setch 255) ∧
      decodeTableWord 32 0x05000001 = some (.pixok 1) := by decide

theorem test_decode_stages :
    decodeTableWord 32 0x10000000 = some .gen ∧ decodeTableWord 32 0x11000000 = some .luma ∧
      decodeTableWord 32 0x12000000 = some .dither ∧ decodeTableWord 32 0x13000000 = some .invert ∧
      decodeTableWord 32 0x14000000 = some .pack := by decide

theorem test_decode_control :
    decodeTableWord 32 0x1F000000 = some .convert ∧ decodeTableWord 32 0xFF000000 = some .rst := by decide

theorem test_decode_bits_one_by_one :
    decode (BitVec.ofBoolListBE [false, false, false, false, false, false, true, false, false, false, false, false,
      false, false, false, false, false, false, false, false, false, false, false, false, false, false, false, false,
      true, false, true, false]) = .ok (.setrows 10) := rfl

theorem test_illegal_words :
    [0x00000001, 0x01010000, 0x01010010, 0x03FF0003, 0x04000100, 0x05000002, 0x06000000, 0x0F000000, 0x10000001,
      0x15000000, 0x1E000000, 0x1F000001, 0x20000000, 0xFE000000, 0xFF000001, 0xFFFFFFFF].map (decodeTableWord 32) =
      List.replicate 16 none := by decide

theorem test_encode_examples :
    [Instr.setn 4, .setrows 10, .setcols 3, .setch 4, .pixok 1].map encode =
      [0x01000004, 0x0200000A, 0x03000003, 0x04000004, 0x05000001] := by decide

/-! ### Configuration commands (spec/95 section 2.4) -/

theorem test_nop : next? (exec .nop colours) = some colours := by decide

theorem test_setn : (next? (exec (.setn 65535) small)).map (fun t => (t.msize, t.rows, t.err)) = some (65535, 0, 0) := by
  decide

theorem test_setrows_keeps_grid :
    (next? (exec (.setrows 9) coloursReduced)).map (fun t => (t.rows, t.cols, t.lum)) =
      some (9, 2, coloursReduced.lum) := by decide

theorem test_setcols : (next? (exec (.setcols 3) colours)).map (fun t => (t.rows, t.cols)) = some (2, 3) := by decide

theorem test_setch : (next? (exec (.setch 4) small)).map (fun t => (t.ch, t.err)) = some (4, 0) := by decide

theorem test_pixok : (next? (exec (.pixok 1) small)).map (fun t => (t.pixok, t.flagsWord)) = some (1, 1) := by decide

/-! ### Stages (spec/95 sections 2.1 to 2.10) -/

theorem test_gen_4 :
    (next? (exec .gen { small with msize := 4 })).map (fun t => t.bayer) =
      some ⟨1, 4, [[0, 8, 2, 10], [12, 4, 14, 6], [3, 11, 1, 9], [15, 7, 13, 5]]⟩ := by decide

theorem test_gen_6_faults :
    (next? (exec .gen { coloursReduced with msize := 6 })).map (fun t => (t.err, t.errstg, t.bayer)) =
      some (1, 1, matrix2) := by decide

theorem test_gen_spots :
    [genRank 16 5 9, genRank 32 5 9, genRank 32 17 30, genRank 64 5 9, genRank 64 33 62, genRank 64 63 0] =
      [78, 312, 937, 1248, 3753, 4095] := by decide

theorem test_luma_two_pixels :
    (next? (exec .luma (image 1 2 [255, 0, 0, 0, 255, 0]))).map (fun t => t.lum) =
      some ⟨1, 1, 2, [[762195, 1496850]]⟩ := by decide

theorem test_luma_malformed_first :
    (next? (exec .luma { small with ch := 4 })).map (fun t => (t.err, t.errstg, t.lum.valid)) = some (3, 2, 0) := by decide

theorem test_dither :
    (next? (exec .dither coloursReduced)).map (fun t => t.dbit) = some ⟨1, 2, 2, [[1, 0], [0, 1]]⟩ := by decide

theorem test_dither_not_ready_first :
    (next? (exec .dither { small with bayer := matrix2 })).map (fun t => (t.err, t.errstg)) = some (4, 3) := by decide

theorem test_above :
    [above 510000 0 2, above 510001 0 2, above 150000 0 4, above 151140 0 4, above 2549745 4095 64, above 0 0 64] =
      [false, true, false, true, true, false] := by decide

theorem test_invert :
    (next? (exec .invert coloursStored)).map (fun t => (t.sbit, t.dbit)) =
      some (⟨1, 2, 2, [[0, 1], [1, 0]]⟩, ⟨1, 2, 2, [[1, 0], [0, 1]]⟩) := by decide

theorem test_invert_mismatch :
    (next? (exec .invert { coloursStored with rows := 16 })).map (fun t => (t.err, t.errstg)) = some (2, 4) := by decide

theorem test_pack :
    (next? (exec .pack { small with rows := 2, cols := 3, sbit := ⟨1, 2, 3, [[1, 0, 0], [1, 1, 0]]⟩ })).map
        (fun t => (t.out, t.txt)) =
      some ([⟨2, 3, [⟨0, 0, [⟨3, 2⟩]⟩, ⟨1, 2, [⟨0, 2⟩]⟩, ⟨2, 1, [⟨1, 2⟩]⟩]⟩],
        [0x30, 0x78, 0x33, 0x0A, 0x30, 0x78, 0x30, 0x0A, 0x30, 0x78, 0x31, 0x0A]) := by decide

theorem test_pack_not_ready :
    (next? (exec .pack small)).map (fun t => (t.err, t.errstg, t.out, t.height)) = some (4, 5, [], 0) := by decide

theorem test_column_order : (List.range 5).map (fun c => src c 5) = [0, 4, 3, 2, 1] ∧ src 0 1 = 0 := by decide

theorem test_groups :
    ([1, 7, 8, 9, 10, 16, 17, 64].map nGroups, [groupBits 9 1, groupBits 10 1, groupBits 17 2, groupBits 7 0]) =
      ([1, 1, 1, 2, 2, 2, 3, 8], [1, 2, 1, 7]) := by decide

theorem test_line : lineOf [255, 0, 16] =
    [0x30, 0x78, 0x66, 0x66, 0x2C, 0x30, 0x78, 0x30, 0x2C, 0x30, 0x78, 0x31, 0x30, 0x0A] := by decide

theorem test_record_stream :
    (Frame.mk 8 1 [⟨0, 0, [⟨85, 8⟩]⟩]).items = [0x000080001, 0x100000000, 0x200000855, 0x300000000] := by decide

/-! ### CONVERT, RST, dispatch and the host (spec/95 sections 2.11, 3) -/

theorem test_convert_colours : next? (exec .convert colours) = some coloursDone := by decide

theorem test_convert_without_pixok :
    (next? (exec .convert { colours with pixok := 0 })).map (fun t => (t.faultWord, t.bayer, t.lum.valid, t.out)) =
      some (0x23, matrix2, 0, []) := by decide

theorem test_rst :
    (next? (exec .rst { coloursDone with err := 1, errstg := 1 })).map
        (fun t => (t.err, t.msize, t.out, t.sbit.valid)) = some (0, 16, [coloursFrame], 0) := by decide

theorem test_illegal_word_faults :
    (next? (step (told (.command 0x06000000) small))).map (fun t => t.faultWord) = some 0x75 := by decide

theorem test_almost_rst_is_discarded :
    (next? (step (told (.command 0xFF000001) { small with err := 4, errstg := 5 }))).map (fun t => t.err) = some 4 := by
  decide

theorem test_pix_write_while_faulted :
    (next? (step (told (.pixWrite 0 7) faulted))).map (fun t => (t.pix, t.err)) = some ([(0, 7)], 1) := by decide

theorem test_register_read :
    (next? (step (told (.regRead 5) faulted))).map (fun t => t.replies) = some [.reg 5 0x11] := by decide

theorem test_withFetchWord :
    (next? (step (State.reset.withFetchWord 32 0x01000004))).map (fun t => t.msize) = some 4 := by decide

/-! ### Listings (R51, R52) -/

theorem test_assemble_setdim :
    assembleLine ['S', 'E', 'T', 'D', 'I', 'M', ' ', '8', ',', ' ', '0', 'x', '1', '0', ' ', ';', 'x'] =
      some [.command 0x02000008, .command 0x03000010] := by decide

theorem test_assemble_pixw :
    assembleLine ['P', 'I', 'X', 'W', ' ', '9', ',', ' ', '6', '0', ' ', '1', '3', '0'] =
      some [.pixWrite 9 60, .pixWrite 10 130] := by decide

theorem test_assemble_refuses : assembleLine ['P', 'I', 'X', 'O', 'K', ' ', '2'] = none := by decide

/-! ### Witnesses: hypotheses that are met

Each theorem names the statement whose hypotheses it meets, clause by clause. -/

theorem test_witness_DecodedCommandEncodesToItsWord : decode 0x040000FF#32 = .ok (.setch 255#8) := rfl

theorem test_witness_CommandExactlyWhenMaskedWordMatches :
    0x05000001#32 &&& Mnemonic.pixok.maskWord = Mnemonic.pixok.matchWord := by decide

theorem test_witness_IllegalWordsAreThoseOfTheRuleAndRaise :
    (told (.command 0x05000002) small).input = [.command 0x05000002] ∧ small.err = 0 ∧ faulted.err ≠ 0 ∧
      (told (.command 0x05000002) faulted).input = [.command 0x05000002] ∧
      decode 0x05000002 = .error .nonzeroField := ⟨rfl, rfl, by decide, rfl, rfl⟩

theorem test_witness_StepRunsTheDecodedCommand :
    decode 0x10000000#32 = .ok .gen ∧ (told (.command 0x10000000) small).err = 0 ∧
      (told (.command 0x10000000) small).input = [.command 0x10000000] ∧ decode 0xFF000000#32 = .ok .rst ∧
      faulted.err ≠ 0 := ⟨rfl, rfl, rfl, rfl, by decide⟩

theorem test_witness_DispatchFollowsItsOrder :
    (told (.command 0xFF000000) faulted).input = [.command 0xFF000000] ∧
      (told (.command 0xFF000001) faulted).input = [.command 0xFF000001] ∧ faulted.err ≠ 0 ∧ small.err = 0 ∧
      (0xFF000001 : Word) ≠ 0xFF000000 ∧ decode 0xFF000001 = .error .nonzeroField ∧ decode 0 = .ok .nop :=
  ⟨rfl, rfl, by decide, rfl, by decide, rfl, rfl⟩

theorem test_witness_AssemblyOfCommandsAndPseudoCommands :
    (WrittenCommand.mk .setn (some 65536)).wellFormed = false ∧ decimal 64 = ['6', '4'] ∧
      hexadecimal 64 = ['0', 'x', '4', '0'] ∧ ([] : List Char) = [] ∧ [';', 'x'] = ';' :: ['x'] := by decide

theorem test_witness_NopChangesNothing :
    (told (.command 0x00000000#32) small).input = [.command 0x00000000#32] := rfl

theorem test_witness_SetnWritesMsizeUnchecked :
    coloursReduced.lum.valid = 1 ∧ coloursReduced.bayer.valid = 1 ∧ coloursReduced.lum.rows = coloursReduced.rows ∧
      coloursReduced.lum.cols = coloursReduced.cols ∧ coloursReduced.bayer.size ≠ 4 := by decide

theorem test_witness_SetrowsSetcolsWriteTheDimensions :
    coloursStored.lum.valid = 1 ∧ coloursStored.bayer.valid = 1 ∧ coloursStored.dbit.valid = 1 ∧
      coloursStored.sbit.valid = 1 ∧ coloursStored.lum.rows ≠ 16 ∧ coloursStored.dbit.rows ≠ 16 ∧
      coloursStored.sbit.cols ≠ 3 := by decide

theorem test_witness_SetchPixokWriteTheirRegister : (4 : Byte) ≠ 3 ∧ colours.pixok = 1 := by decide

theorem test_witness_GenBuildsTheMatrixOrFaults :
    isValidN colours.msize.toNat = true ∧ isValidN 2 = true ∧ isValidN 64 = true ∧
      next? (exec .gen colours) = some { colours with bayer := matrix2 } ∧
      isValidN ({ colours with msize := 65 } : State).msize.toNat = false ∧
      coloursReduced.bayerInv ∧ coloursReduced.bayer.valid = 1 ∧ coloursReduced.bayer.size = coloursReduced.msize := by
  unfold State.bayerInv; decide

/-- For MatrixRecursionByQuadrants, MatrixClosedForm, MatrixIsAPermutationWithItsCorners, ThresholdsLieStrictlyInside,
TiesAreNotAboveAndSize16HasNone and DitherIsMonotoneWhiteAndBlackAreFixed. -/
theorem test_witness_legal_size : isValidN 4 = true ∧ isValidN 16 = true ∧ isValidN 2 = true ∧ (4 : Nat) ≠ 16 := by decide

theorem test_witness_LegalSizesArePowersOfTwoUpTo64 : 64 < ({ small with msize := 65 } : State).msize.toNat := by decide

theorem test_witness_LumNumFormulaAndRange : lumNum 255 255 255 ≤ 2549745 ∧ (255 : Nat) ≤ 255 := by decide

theorem test_witness_LumaChecksThenReducesEveryPixel :
    small.pixok = 0 ∧ (colours.pixok = 1 ∧ ({ colours with ch := 4 } : State).ch ≠ 3) ∧
      (colours.ch = 3 ∧ colours.build.maxRows < (17 : Half).toNat ∧ colours.build.maxCols < (6 : Half).toNat) ∧
      (1 ≤ (image 16 5 []).rows.toNat ∧ (image 16 5 []).rows.toNat ≤ (image 16 5 []).build.maxRows ∧
        1 ≤ (image 16 5 []).cols.toNat ∧ (image 16 5 []).cols.toNat ≤ (image 16 5 []).build.maxCols ∧
        (image 16 5 []).pixok = 1 ∧ (image 16 5 []).ch = 3) := by decide

theorem test_witness_LumaKeepsDimensionsIsLinearAndMonotone :
    next? (exec .luma colours) = some { coloursReduced with bayer := colours.bayer } ∧ colours.err = 0 ∧
      colours.errstg = coloursReduced.errstg ∧ coloursReduced.err = colours.err := by decide

theorem test_witness_SampleAddressesStayInsidePix :
    (image 16 5 []).dimensionsLegal = true ∧ colours.dimensionsLegal = true := by decide

theorem test_witness_LumaReadsNoByteBeyondTheGrid :
    (∀ a < 3 * colours.rows.toNat * colours.cols.toNat,
      State.pixByte { colours with pix := colours.pix ++ [(12, 9)] } a = State.pixByte colours a) ∧
      (next? (exec .luma colours)).isSome = true := by decide

theorem test_witness_DitherChecksThenDecidesEveryPixel :
    small.lum.valid = 0 ∧
      (coloursReduced.lum.valid = 1 ∧ coloursReduced.bayer.valid = 1 ∧ coloursReduced.lum.rows ≠ 3) ∧
      (coloursReduced.lum.rows = coloursReduced.rows ∧ coloursReduced.lum.cols = coloursReduced.cols ∧
        coloursReduced.bayer.size ≠ 16) ∧
      coloursReduced.bayer.size = coloursReduced.msize := by decide

theorem test_witness_TiesAreNotAboveAndSize16HasNone : ((150000 : Nat) : ℚ) / 10000 = thr 0 4 := by
  norm_num [thr, lumMax]

theorem test_witness_InvertStoresTheComplementOfEachDecision :
    small.dbit.valid = 0 ∧ (coloursStored.dbit.valid = 1 ∧ coloursStored.dbit.rows ≠ 16) ∧
      coloursStored.dbit.rows = coloursStored.rows ∧ coloursStored.dbit.cols = coloursStored.cols := by decide

theorem test_witness_DitherIsMonotoneWhiteAndBlackAreFixed :
    (next? (exec .dither coloursReduced)).map (fun t => t.err) = some 0 ∧ coloursReduced.err = 0 ∧
      (next? (exec .invert coloursStored)).map (fun t => t.err) = some 0 ∧ coloursStored.err = 0 ∧
      above 2040001 3 2 = true := by decide

/-- P7 reduced, with its first pixel white and its second black. -/
def coloursExtreme : State := { coloursReduced with lum := ⟨1, 2, 2, [[2549745, 0], [290700, 2259045]]⟩ }

/-- For DitherIsMonotoneWhiteAndBlackAreFixed: two runs through DITHER and INVERT under one matrix, without a fault, the
first pixel brighter in the second, and there white beside black. -/
theorem test_witness_DitherIsMonotone_runs :
    ((next? (exec .dither coloursReduced)).bind fun t => next? (exec .invert t)).map (fun u => u.err) = some 0 ∧
      ((next? (exec .dither coloursExtreme)).bind fun t => next? (exec .invert t)).map (fun u => (u.err, u.sbit.cells)) =
        some (0, [[0, 1], [1, 0]]) ∧
      coloursReduced.bayer = coloursExtreme.bayer ∧ coloursExtreme.bayerInv ∧ coloursExtreme.err = 0 ∧
      (coloursReduced.lumAt 0 0).toNat ≤ (coloursExtreme.lumAt 0 0).toNat ∧
      (coloursExtreme.lumAt 0 0).toNat = lumNum 255 255 255 ∧ (coloursExtreme.lumAt 0 1).toNat = lumNum 0 0 0 := by
  unfold State.bayerInv; decide

/-- Also for PackedTextHasOneLinePerColumn. -/
theorem test_witness_PackEmitsOneWholeFrame :
    small.sbit.valid = 0 ∧ (coloursStored.sbit.valid = 1 ∧ coloursStored.sbit.cols ≠ 3) ∧
      coloursStored.sbit.rows = coloursStored.rows ∧ coloursStored.sbit.cols = coloursStored.cols := by decide

theorem test_witness_ColumnOrderIsZeroThenDescending : 1 ≤ 1 ∧ src 0 1 < 1 ∧ src 2 3 = 1 := by decide

theorem test_witness_LiteralIsMinimalLowercaseHex : 255 < 256 ∧ hexLit 255 = [0x30, 0x78, 0x66, 0x66] := by decide

theorem test_witness_GroupValueHoldsTheRowsTopFirst :
    0 < nGroups coloursStored.sbit.rows.toNat ∧ 1 < nGroups 10 ∧ 1 + 1 = nGroups 10 ∧ 0 + 1 < nGroups 10 := by decide

theorem test_witness_RecordStreamItemsHaveTheirFields :
    coloursFrame.inv ∧
      ∀ c ∈ coloursFrame.columns, c.c < 65536 ∧ c.s < 65536 ∧ ∀ g ∈ c.groups, g.nbits ≤ 8 := by
  unfold Frame.inv; decide

/-- For ConvertComputesTheFrameOfThePixelGrid. -/
theorem test_witness_ready : colours.readyToConvert := by unfold State.readyToConvert; decide

theorem test_witness_ConvertFaultsOnlyInGenAndLuma :
    isValidN ({ colours with msize := 6 } : State).msize.toNat = false ∧ isValidN colours.msize.toNat = true ∧
      ({ colours with pixok := 0 } : State).pixok = 0 ∧ colours.pixok = 1 ∧
      State.dimensionsLegal { colours with rows := 17 } = false ∧ ({ colours with ch := 4 } : State).ch ≠ 3 := by decide

theorem test_witness_ConvertEqualsTheFiveStageCommands : colours.err = 0 ∧ small.err = 0 := by decide

theorem test_witness_ResetInputGivesThePowerOnState :
    (told .resetInput coloursDone).input = [.resetInput] := rfl

theorem test_witness_FaultsChangeOnlyErrAndErrstg :
    (next? (exec .pack small)).isSome = true ∧ Instr.pack ∈ stageCommands ∧ small.err = 0 ∧
      decode 0x06000000 = .error .unknownOpcode := ⟨by decide, by decide, rfl, rfl⟩

theorem test_witness_NoPartialOutputOnAFault :
    (next? (present 0x1F000000 small)).map (fun t => t.err) = some 3 ∧ small.err = 0 := by decide

theorem test_witness_EachFaultHasExactlyItsCauses :
    (next? (exec .invert small)).isSome = true ∧ small.err = 0 ∧
      (next? (present 0x06000000 small)).map (fun t => (t.err, t.errstg)) = some (5, 7) ∧
      next? (present 0x06000000 faulted) = some faulted ∧ faulted.err ≠ 0 := by decide

theorem test_witness_RecordedFaultStaysUntilReset :
    faulted.err ≠ 0 ∧ (told (.pixWrite 0 7) faulted).input.head? ≠ some (.command 0xFF000000) ∧
      (told (.pixWrite 0 7) faulted).input.head? ≠ some .resetInput ∧
      (next? (step (told (.pixWrite 0 7) faulted))).isSome = true := by decide

theorem test_witness_HostPixWriteChangesOneByte :
    (told (.pixWrite 239 1) small).input = [.pixWrite 239 1] ∧ 239 < small.build.pixcap ∧
      ¬ 240 < small.build.pixcap := by decide

theorem test_witness_RegisterReadPortMap :
    (told (.regRead 0) small).input = [.regRead 0] ∧ (told (.regRead 15) small).input = [.regRead 15] := by decide

theorem test_witness_ResetValuesOfTheTable : (next? (exec .rst coloursDone)).isSome = true := by decide

theorem test_witness_HostReadsReturnAndChangeNothing :
    (told (.pixRead 239) small).input = [.pixRead 239] ∧ 239 < small.build.pixcap ∧
      (told (.regRead 15) small).input = [.regRead 15] := by decide

theorem test_witness_OnlyOutOfRangeHostAccessesAreRefused :
    (HostAction.regRead 16).allowed smallBuild = false ∧ (HostAction.pixWrite 240 0).allowed smallBuild = false ∧
      step (told (.regRead 16) small) = .refused (.regOutOfRange 16) ∧ small.input = [] :=
  ⟨by decide, by decide, rfl, rfl⟩

/-- For the statements StepKeeps…, with the step of the next theorem. -/
theorem test_witness_invariants : (told (.command 0x14000000) coloursDone).Inv := by
  unfold State.Inv State.pixInv State.faultInv State.gridInv State.historyInv
  refine ⟨?_, ?_, ⟨?_, ?_, ?_, ?_, ?_, ?_⟩, ?_, .inr ⟨coloursFrame, rfl, rfl, rfl⟩⟩
  · decide
  · decide
  · unfold State.bayerInv; decide
  · unfold Plane.inv Grid.hasShape; decide
  · unfold Plane.inv Grid.hasShape; decide
  · unfold Plane.inv Grid.hasShape; decide
  · simp [State.lumRange, told, coloursDone, coloursStored, coloursReduced]
  · unfold State.producedInOrder; decide
  · unfold Frame.inv; decide

theorem test_witness_step_answers_next : (next? (step (told (.command 0x14000000) coloursDone))).isSome = true := by decide

theorem test_witness_StepKeepsTextInItsAlphabet :
    ∀ b ∈ (told (.command 0x14000000) coloursDone).txt, b ∈ textAlphabet := by decide

theorem test_witness_ConfigurationWrittenOnlyByItsCommand :
    (told (.command 0x01000004) small).input = [.command 0x01000004] ∧
      (next? (step (told (.command 0x01000004) small))).map (fun t => t.msize) = some 4 ∧ small.msize ≠ 4 := by decide

theorem test_witness_HistoriesOnlyGrowByPackAndConvert :
    (told (.command 0x14000000) coloursDone).input = [.command 0x14000000] ∧
      HostAction.command 0x14000000 ≠ .resetInput := by decide

theorem test_witness_PixWrittenOnlyByTheHost :
    (told (.pixRead 3) colours).input = [.pixRead 3] ∧
      (next? (step (told (.pixRead 3) colours))).map (fun t => t.replies) = some [.pix 3 0] := by decide

theorem test_witness_ConvertDependsOnlyOnConfigurationAndPixels :
    colours.build = coloursDone.build ∧ colours.msize = coloursDone.msize ∧ colours.rows = coloursDone.rows ∧
      colours.cols = coloursDone.cols ∧ colours.ch = coloursDone.ch ∧ colours.pixok = coloursDone.pixok ∧
      colours.err = 0 ∧ coloursDone.err = 0 ∧ colours.errstg = 0 ∧ coloursDone.errstg = 0 ∧
      (∀ a < 3 * colours.rows.toNat * colours.cols.toNat, colours.pixByte a = coloursDone.pixByte a) ∧
      (next? (exec .convert colours)).isSome = true ∧ (next? (exec .convert coloursDone)).isSome = true := by decide

theorem test_witness_WhiteImagePacksToZero :
    (image 1 1 [255, 255, 255]).readyToConvert ∧
      ∀ a < 3 * (image 1 1 [255, 255, 255]).rows.toNat * (image 1 1 [255, 255, 255]).cols.toNat,
        (image 1 1 [255, 255, 255]).pixByte a = 255 := by
  unfold State.readyToConvert; decide

end Sys2Proof.Tests
end

section
/-! SUPPORT. Proofs on the whole state (10_state.md): what no command but its own writes, and the invariants every step
keeps. -/

namespace Sys2Proof

/-- The decoder reads a command only from that command's own word: the other direction of reading back (R49). -/
theorem encode_eq_of_decode_ok {w : Word} {i : Instr} (h : decode w = .ok i) : encode i = w := by
  obtain ⟨m, hop, hzero, rfl⟩ := decode_ok.1 h
  have hop := congrArg BitVec.toNat hop
  rw [opcodeField_toNat] at hop
  rw [mustBeZeroField_eq_zero] at hzero
  apply BitVec.eq_of_toNat_eq
  rw [encode_toNat, mnemonic_withOperand, hop]
  have hlow : (m.withOperand w).operandBits.toNat = w.toNat % 2 ^ 24 := by
    cases m <;>
      simp only [Mnemonic.withOperand, Instr.operandBits, imm16Field, imm8Field, imm1Field, BitVec.toNat_setWidth,
        BitVec.zeroExtend_eq_setWidth, BitVec.extractLsb'_toNat, Nat.shiftRight_zero, BitVec.toNat_ofNat,
        Mnemonic.format, Format.immWidth] at hzero ⊢ <;> omega
  rw [hlow]; omega

end Sys2Proof

namespace Sys2Proof.Machine

/-! ### Dispatch of a decoded command -/

/-- RST is read from its exact word alone (R96). -/
theorem eq_rstWord_of_decode {w : Word} (h : decode w = .ok .rst) : w = rstWord := by
  rw [← encode_eq_of_decode_ok h]; decide

/-- With no fault recorded, or for RST, dispatch executes the command the word decodes to (R96). -/
theorem present_eq_exec {w : Word} {i : Instr} {s : State} (hd : decode w = .ok i) (h : s.err = 0#3 ∨ i = .rst) :
    present w s = exec i s := by
  by_cases hw : w = rstWord
  · subst hw
    obtain rfl : Instr.rst = i := by simpa [decode_rstWord] using hd
    simp [present]
  · have herr : s.err = 0#3 := h.resolve_right fun hi => hw (eq_rstWord_of_decode (hi ▸ hd))
    simp [present, hw, herr, hd]

/-- A step performs the first of the host's actions (R18). -/
theorem step_of_input {s : State} {a : HostAction} {rest : List HostAction} (h : s.input = a :: rest) :
    step s = performAction a (s.withInput rest) := by simp [step, performNext, h]

/-- Settles O6: dispatch executes the decoded command, and putting a word before the host's sequence and taking it off
again leaves the state as it was. -/
theorem stepRunsTheDecodedCommand : Obligations.StepRunsTheDecodedCommand := by
  intro s w i hd h
  have hstep : ∀ u rest, u.input = .command w :: rest → u.err = s.err → step u = exec i (u.withInput rest) := by
    intro u rest hin herr
    rw [step_of_input hin]
    exact present_eq_exec hd (by simpa [herr] using h)
  refine ⟨fun rest hin => hstep s rest hin rfl, ?_⟩
  exact hstep (s.withFetchWord 32 w.toNat) s.input
    (by simp [State.withFetchWord, State.withCommand, tableWord_toNat]) rfl

/-! ### The effect of one host action -/

/-- Every way the action `a` can take the state `s`, from which it has been taken off, to `t` (R38 to R40, R96, R114).
`step_cases` with its cases named. -/
inductive ActionEffect (s : State) : HostAction → State → Prop
  | pixWrite (b : Nat) (v : Byte) (hb : b < s.build.pixcap) : ActionEffect s (.pixWrite b v) (s.writePix b v)
  | pixRead (b : Nat) (hb : b < s.build.pixcap) : ActionEffect s (.pixRead b) (s.reply (.pix b (s.pixByte b)))
  | regRead (k : Nat) (hk : k < 16) : ActionEffect s (.regRead k) (s.reply (.reg k (s.readReg k)))
  | resetInput : ActionEffect s .resetInput s.powerOnReset
  | rst : ActionEffect s (.command rstWord) s.softReset
  | discarded (w : Word) (hw : w ≠ rstWord) (herr : s.err ≠ 0#3) : ActionEffect s (.command w) s
  | illegal (w : Word) (e : IllegalWord) (hw : w ≠ rstWord) (herr : s.err = 0#3) (hdec : decode w = .error e) :
      ActionEffect s (.command w) (s.takeFault ⟨.illegalCommand, .commandDecode⟩)
  | executed (w : Word) (i : Instr) {t : State} (hw : w ≠ rstWord) (herr : s.err = 0#3) (hdec : decode w = .ok i)
      (hexec : exec i s = .next t) : ActionEffect s (.command w) t

theorem actionEffect_of_step {s t : State} {a : HostAction} {rest : List HostAction} (hin : s.input = a :: rest)
    (h : step s = .next t) : ActionEffect (s.withInput rest) a t := by
  rcases step_cases h with ⟨hnil, -⟩ | ⟨a', rest', hin', hcases⟩
  · simp [hin] at hnil
  obtain ⟨rfl, rfl⟩ : a = a' ∧ rest = rest' := by simpa [hin] using hin'
  rcases hcases with ⟨b, v, rfl, hb, rfl⟩ | ⟨b, rfl, hb, rfl⟩ | ⟨k, rfl, hk, rfl⟩ | ⟨rfl, rfl⟩ |
    ⟨rfl, rfl⟩ | ⟨w, rfl, hw, herr, rfl⟩ | ⟨w, e, rfl, hw, herr, hdec, rfl⟩ | ⟨w, i, rfl, hw, herr, hdec, hexec⟩
  · exact .pixWrite b v hb
  · exact .pixRead b hb
  · exact .regRead k hk
  · exact .resetInput
  · exact .rst
  · exact .discarded w hw herr
  · exact .illegal w e hw herr hdec
  · exact .executed w i hw herr hdec hexec

/-- With no action left the step is idle (R113). -/
theorem step_of_no_input {s t : State} (hin : s.input = []) (h : step s = .next t) : t = s := by
  rcases step_cases h with ⟨-, rfl⟩ | ⟨a, rest, hin', -⟩
  · rfl
  · simp [hin] at hin'

/-! ### The register read port -/

/-- The fields of FLAGS as a number (R25). -/
theorem flagsWord_toNat (s : State) : s.flagsWord.toNat =
    s.pixok.toNat + 2 * s.bayer.valid.toNat + 4 * s.lum.valid.toNat + 8 * s.dbit.valid.toNat +
      16 * s.sbit.valid.toNat := by
  unfold State.flagsWord
  generalize s.pixok = p, s.bayer.valid = b, s.lum.valid = l, s.dbit.valid = d, s.sbit.valid = v
  revert p b l d v
  decide

/-- The fields of FAULT as a number (R25). -/
theorem faultWord_toNat (s : State) : s.faultWord.toNat = s.err.toNat + 16 * s.errstg.toNat := by
  unfold State.faultWord
  generalize s.err = e, s.errstg = g
  revert e g
  decide

/-- Settles O46: the value of each register and view, and the step of a host register read. -/
theorem registerReadPortMap : Obligations.RegisterReadPortMap := by
  intro s
  constructor
  · have hrange : List.range 16 = [0, 1, 2, 3, 4, 5, 6, 7, 8, 9, 10, 11, 12, 13, 14, 15] := by decide
    simp only [hrange, List.map_cons, List.map_nil, State.readReg, flagsWord_toNat, faultWord_toNat,
      BitVec.zeroExtend_eq_setWidth, BitVec.toNat_setWidth_of_le (show 16 ≤ 32 by decide),
      BitVec.toNat_setWidth_of_le (show 8 ≤ 32 by decide), BitVec.toNat_ofNat, Nat.zero_mod]
  · intro k rest hin hk
    rw [step_of_input hin, performAction, if_pos hk]
    rfl

/-! ### The reset states -/

/-- An empty grid memory with its flag 0 is as the rules describe an invalid one (R29, R32). -/
theorem Plane.inv_empty {w : Nat} (b : Build) : Plane.inv b (⟨0#1, 0#16, 0#16, []⟩ : Plane w) := by
  simp [Plane.inv]

/-- With the four grid memories empty and invalid, the grid invariant holds (R29, R32). -/
theorem gridInv_of_empty {s : State} (hb : s.bayer = ⟨0#1, 0#16, []⟩) (hl : s.lum = ⟨0#1, 0#16, 0#16, []⟩)
    (hd : s.dbit = ⟨0#1, 0#16, 0#16, []⟩) (hv : s.sbit = ⟨0#1, 0#16, 0#16, []⟩) : s.gridInv :=
  ⟨by simp [State.bayerInv, hb], hl ▸ Plane.inv_empty _, hd ▸ Plane.inv_empty _, hv ▸ Plane.inv_empty _,
    by simp [State.lumRange, hl], by simp [State.producedInOrder, hd, hv]⟩

/-- With nothing emitted, the histories are well formed (R26, R27). -/
theorem historyInv_of_empty {s : State} (ho : s.out = []) (ht : s.txt = []) : s.historyInv := by
  simp [State.historyInv, ho, ht, textOf]

/-- With nothing listed, PIX is canonical and inside PIXCAP (R29). -/
theorem pixInv_of_empty {s : State} (h : s.pix = []) : s.pixInv := by simp [State.pixInv, h, Memory.wf]

/-- With no fault recorded, the fault registers are legal (R102). -/
theorem faultInv_of_zero {s : State} (he : s.err = 0#3) (hg : s.errstg = 0#3) : s.faultInv := by
  simp [State.faultInv, he, hg, legalFaultPairs]

/-- Settles O48: each invariant holds of empty memories and zero registers. -/
theorem resetStateMeetsTheInvariants : Obligations.ResetStateMeetsTheInvariants := by
  intro b
  have hinv : (State.resetOf b).Inv :=
    ⟨pixInv_of_empty rfl, faultInv_of_zero rfl rfl, gridInv_of_empty rfl rfl rfl rfl, historyInv_of_empty rfl rfl,
      .inl ⟨rfl, rfl⟩⟩
  exact ⟨hinv, rfl, rfl, rfl, rfl, rfl, rfl, rfl, rfl, rfl, rfl⟩

/-- The reading of PIX depends on what is listed and on the power-on counter alone (R116). -/
theorem pixByte_congr {s t : State} (hpix : t.pix = s.pix) (hpow : t.powerOns = s.powerOns) (a : Nat) :
    t.pixByte a = s.pixByte a := by simp only [State.pixByte, hpix, hpow]

/-- RST answers the soft reset of the state (R99). -/
theorem exec_rst_eq {s t : State} (h : exec .rst s = .next t) : t = s.softReset := (Host.Outcome.next.inj h).symm

/-- Settles O49: the table of R29 field by field, for the two kinds of reset. -/
theorem resetValuesOfTheTable : Obligations.ResetValuesOfTheTable := by
  refine ⟨?_, rfl, rfl, fun b => ⟨rfl, rfl⟩, ?_⟩
  · rintro t (rfl | ⟨b, rfl⟩ | ⟨s, h⟩)
    · simp [State.reset, State.resetOf]
    · simp [State.resetOf]
    · simp [exec_rst_eq h]
  · intro s t h
    obtain rfl := exec_rst_eq h
    exact ⟨rfl, rfl, fun a => pixByte_congr rfl rfl a⟩

/-! ### PIX -/

/-- A write below PIXCAP keeps PIX canonical and inside PIXCAP (R36, R38). -/
theorem pixInv_writePix {s : State} {a : Nat} (v : Byte) (h : s.pixInv) (ha : a < s.build.pixcap) :
    (s.writePix a v).pixInv := by
  obtain ⟨hwf, hcap⟩ := h
  refine ⟨Memory.wf_write a v hwf, fun cell hcell => ?_⟩
  rcases Memory.mem_write hcell with rfl | hold
  · exact ha
  · exact hcap cell hold

/-- The configuration registers are the same (R11 to R15). -/
structure SameConfiguration (s t : State) : Prop where
  msize : t.msize = s.msize
  rows : t.rows = s.rows
  cols : t.cols = s.cols
  ch : t.ch = s.ch
  pixok : t.pixok = s.pixok

/-- The build, PIX and the power-on counter are the same, and so is every byte of PIX (R5, R19, R116). -/
structure SamePix (s t : State) : Prop where
  build : t.build = s.build
  pix : t.pix = s.pix
  powerOns : t.powerOns = s.powerOns

/-- What no stage writes is the same: the configuration registers, the build and PIX (R41, R63, R71, R76, R80, R83). -/
structure SameOutsideStages (s t : State) : Prop extends SameConfiguration s t, SamePix s t

theorem SameOutsideStages.refl (s : State) : SameOutsideStages s s := ⟨⟨rfl, rfl, rfl, rfl, rfl⟩, ⟨rfl, rfl, rfl⟩⟩

theorem SameOutsideStages.trans {s t u : State} (h : SameOutsideStages s t) (h' : SameOutsideStages t u) :
    SameOutsideStages s u :=
  ⟨⟨h'.msize.trans h.msize, h'.rows.trans h.rows, h'.cols.trans h.cols, h'.ch.trans h.ch, h'.pixok.trans h.pixok⟩,
    ⟨h'.build.trans h.build, h'.pix.trans h.pix, h'.powerOns.trans h.powerOns⟩⟩

/-- Taking a fault writes ERR and ERRSTG alone (R106). -/
theorem sameOutsideStages_takeFault (s : State) (r : Raise) : SameOutsideStages s (s.takeFault r) :=
  ⟨⟨rfl, rfl, rfl, rfl, rfl⟩, ⟨rfl, rfl, rfl⟩⟩

theorem sameOutsideStages_of_stage {f : State → Except Raise State} (hf : f ∈ stages) {s t : State}
    (h : f s = .ok t) : SameOutsideStages s t := by
  rcases stage_ok_update hf h with ⟨n, g, rfl⟩ | ⟨r, c, g, rfl⟩ | ⟨r, c, g, rfl⟩ | ⟨r, c, g, rfl⟩ | ⟨g, x, rfl⟩ <;>
    exact ⟨⟨rfl, rfl, rfl, rfl, rfl⟩, ⟨rfl, rfl, rfl⟩⟩

theorem sameOutsideStages_runStages {fs : List (State → Except Raise State)} (hfs : ∀ f ∈ fs, f ∈ stages) (s : State) :
    SameOutsideStages s (runStages fs s) :=
  runStages_keeps (P := SameOutsideStages s)
    (fun f hf _ _ h hok => h.trans (sameOutsideStages_of_stage (hfs f hf) hok))
    (fun _ _ u r h _ => h.trans (sameOutsideStages_takeFault u r)) (.refl s)

/-- PIX's invariant speaks of nothing a stage writes. -/
theorem pixInv_of_same {s t : State} (h : s.pixInv) (hst : SameOutsideStages s t) : t.pixInv := by
  simpa only [State.pixInv, hst.pix, hst.build] using h

/-- Settles O50: a host write below PIXCAP is the one update that touches PIX, but for the reset input, which empties
its list. -/
theorem stepKeepsPixCanonical : Obligations.StepKeepsPixCanonical := fun _ _ =>
  step_keeps (P := State.pixInv) (input := fun _ _ h => h) (pixWrite := fun _ _ v => pixInv_writePix v)
    (reply := fun _ _ h => h) (powerOn := fun _ _ => pixInv_of_empty rfl) (soft := fun _ h => h)
    (illegal := fun _ h => h) (config := fun _ h => ⟨fun _ => h, fun _ => h, fun _ => h, fun _ => h, fun _ => h⟩)
    (ok := fun _ hf _ _ h hok => pixInv_of_same h (sameOutsideStages_of_stage hf hok))
    (error := fun _ _ _ _ h _ => h)

/-! ### The fault registers -/

/-- A stage that answers raises nothing: ERR and ERRSTG stay (R106). -/
theorem stage_ok_err {f : State → Except Raise State} (hf : f ∈ stages) {s t : State} (h : f s = .ok t) :
    t.err = s.err ∧ t.errstg = s.errstg := by
  rcases stage_ok_update hf h with ⟨n, g, rfl⟩ | ⟨r, c, g, rfl⟩ | ⟨r, c, g, rfl⟩ | ⟨r, c, g, rfl⟩ | ⟨g, x, rfl⟩ <;>
    exact ⟨rfl, rfl⟩

/-- Every raise of a stage names a pair of the table of R102. -/
theorem stage_error_legal {f : State → Except Raise State} (hf : f ∈ stages) {s : State} {r : Raise}
    (h : f s = .error r) : (r.kind.code, r.stage.number) ∈ legalFaultPairs := by
  simp only [stages, List.mem_cons, List.not_mem_nil, or_false] at hf
  rcases hf with rfl | rfl | rfl | rfl | rfl
  · obtain ⟨-, rfl⟩ := genStage_error.1 h
    decide
  · rcases lumaStage_error.1 h with ⟨-, rfl⟩ | ⟨-, -, rfl⟩ <;> decide
  · rcases ditherStage_error.1 h with ⟨-, rfl⟩ | ⟨-, -, -, rfl⟩ <;> decide
  · rcases invertStage_error.1 h with ⟨-, rfl⟩ | ⟨-, -, rfl⟩ <;> decide
  · rcases packStage_error.1 h with ⟨-, rfl⟩ | ⟨-, -, rfl⟩ <;> decide

/-- Settles O51: ERR and ERRSTG are written by the two resets, by the raise of dispatch and by the raises of the
stages. -/
theorem stepKeepsFaultRegistersLegal : Obligations.StepKeepsFaultRegistersLegal := fun _ _ =>
  step_keeps (P := State.faultInv) (input := fun _ _ h => h) (pixWrite := fun _ _ _ h _ => h)
    (reply := fun _ _ h => h) (powerOn := fun _ _ => faultInv_of_zero rfl rfl)
    (soft := fun _ _ => faultInv_of_zero rfl rfl)
    (illegal := fun _ _ => show (5#3, 7#3) ∈ legalFaultPairs by decide)
    (config := fun _ h => ⟨fun _ => h, fun _ => h, fun _ => h, fun _ => h, fun _ => h⟩)
    (ok := fun _ hf _ _ h hok => by simpa only [State.faultInv, stage_ok_err hf hok] using h)
    (error := fun _ hf _ _ _ herr => stage_error_legal hf herr)

/-- Settles O43: with a fault recorded, the only actions that write ERR, ERRSTG, OUT or TXT are RST and the reset
input; every other word is discarded (R96, R110). -/
theorem recordedFaultStaysUntilReset : Obligations.RecordedFaultStaysUntilReset := by
  intro s t herr hrst hreset hstep
  cases hin : s.input with
  | nil =>
    obtain rfl := step_of_no_input hin hstep
    exact ⟨rfl, rfl, rfl, rfl⟩
  | cons a rest =>
    simp only [hin, List.head?_cons, ne_eq, Option.some.injEq] at hrst hreset
    cases actionEffect_of_step hin hstep with
    | pixWrite => exact ⟨rfl, rfl, rfl, rfl⟩
    | pixRead => exact ⟨rfl, rfl, rfl, rfl⟩
    | regRead => exact ⟨rfl, rfl, rfl, rfl⟩
    | resetInput => exact absurd rfl hreset
    | rst => exact absurd rfl hrst
    | discarded => exact ⟨rfl, rfl, rfl, rfl⟩
    | illegal w e _ hzero => exact absurd hzero herr
    | executed w i _ hzero => exact absurd hzero herr

/-! ### The grid memories -/

/-- A valid grid memory has a legal tag and exactly the elements inside it. -/
theorem Plane.inv_valid {w : Nat} {b : Build} {p : Plane w} (hv : p.valid = 1#1) : p.inv b ↔
    (1 ≤ p.rows.toNat ∧ p.rows.toNat ≤ b.maxRows ∧ 1 ≤ p.cols.toNat ∧ p.cols.toNat ≤ b.maxCols) ∧
      Grid.hasShape p.cells p.rows.toNat p.cols.toNat := by
  simp only [Plane.inv, hv, if_true, and_assoc]

/-- A grid built over the tag of a valid grid memory makes a valid grid memory. -/
theorem Plane.inv_build {w v : Nat} {b : Build} {p : Plane w} (hv : p.valid = 1#1) (h : p.inv b)
    (f : Nat → Nat → BitVec v) :
    Plane.inv b ⟨1#1, p.rows, p.cols, Grid.build p.rows.toNat p.cols.toNat f⟩ :=
  (Plane.inv_valid rfl).2 ⟨((Plane.inv_valid hv).1 h).1, Grid.hasShape_build _ _ _⟩

/-- Every luminance numerator LUMA stores is in range (R21, R72). -/
theorem lumRange_lumGrid {s : State} {row : List (BitVec 22)} {v : BitVec 22} (hrow : row ∈ s.lumGrid) (hv : v ∈ row) :
    v.toNat ≤ 2549745 := by
  obtain ⟨i, -, j, -, rfl⟩ := Grid.mem_build hrow hv
  have hle := lumNum_le (sample_le s i j 0) (sample_le s i j 1) (sample_le s i j 2)
  rw [BitVec.toNat_ofNat]
  exact (Nat.mod_le _ _).trans hle

/-- GEN keeps the grid memories: BAYER becomes Gen(MSIZE), a legal size (R63). -/
theorem gridInv_genStage {s t : State} (h : s.gridInv) (hok : genStage s = .ok t) : t.gridInv := by
  obtain ⟨hsize, rfl⟩ := genStage_ok.1 hok
  obtain ⟨-, hlum, hdbit, hsbit, hrange, horder, hsv⟩ := h
  exact ⟨by simp [State.bayerInv, hsize], hlum, hdbit, hsbit, hrange, fun hd => ⟨(horder hd).1, rfl⟩, hsv⟩

/-- LUMA keeps the grid memories: LUM becomes the luminances of legal dimensions (R71). -/
theorem gridInv_lumaStage {s t : State} (h : s.gridInv) (hok : lumaStage s = .ok t) : t.gridInv := by
  obtain ⟨-, -, hdim, rfl⟩ := lumaStage_ok.1 hok
  obtain ⟨hbayer, -, hdbit, hsbit, -, horder, hsv⟩ := h
  have hlum : Plane.inv s.build ⟨1#1, s.rows, s.cols, s.lumGrid⟩ :=
    (Plane.inv_valid rfl).2 ⟨(dimensionsLegal_iff s).1 hdim, Grid.hasShape_build _ _ _⟩
  exact ⟨hbayer, hlum, hdbit, hsbit, fun _ hrow _ hv => lumRange_lumGrid hrow hv,
    fun hd => ⟨rfl, (horder hd).2⟩, hsv⟩

/-- DITHER keeps the grid memories: DBIT takes LUM's tag, with LUM and BAYER valid (R76). -/
theorem gridInv_ditherStage {s t : State} (h : s.gridInv) (hok : ditherStage s = .ok t) : t.gridInv := by
  obtain ⟨hlv, hbv, -, -, -, rfl⟩ := ditherStage_ok.1 hok
  obtain ⟨hbayer, hlum, -, hsbit, hrange, -, -⟩ := h
  exact ⟨hbayer, hlum, Plane.inv_build hlv hlum _, hsbit, hrange, fun _ => ⟨hlv, hbv⟩, fun _ => rfl⟩

/-- INVERT keeps the grid memories: SBIT takes DBIT's tag, with DBIT valid (R80). -/
theorem gridInv_invertStage {s t : State} (h : s.gridInv) (hok : invertStage s = .ok t) : t.gridInv := by
  obtain ⟨hdv, -, -, rfl⟩ := invertStage_ok.1 hok
  obtain ⟨hbayer, hlum, hdbit, -, hrange, horder, -⟩ := h
  exact ⟨hbayer, hlum, hdbit, Plane.inv_build hdv hdbit _, hrange, horder, fun _ => hdv⟩

/-- PACK writes no grid memory (R83). -/
theorem gridInv_packStage {s t : State} (h : s.gridInv) (hok : packStage s = .ok t) : t.gridInv := by
  obtain ⟨-, -, -, rfl⟩ := packStage_ok.1 hok
  exact h

theorem gridInv_stage {f : State → Except Raise State} (hf : f ∈ stages) {s t : State} (h : s.gridInv)
    (hok : f s = .ok t) : t.gridInv := by
  simp only [stages, List.mem_cons, List.not_mem_nil, or_false] at hf
  rcases hf with rfl | rfl | rfl | rfl | rfl
  · exact gridInv_genStage h hok
  · exact gridInv_lumaStage h hok
  · exact gridInv_ditherStage h hok
  · exact gridInv_invertStage h hok
  · exact gridInv_packStage h hok

/-- Settles O52: each stage keeps the grid memories, and the two resets empty them. -/
theorem stepKeepsGridMemories : Obligations.StepKeepsGridMemories := fun _ _ =>
  step_keeps (P := State.gridInv) (input := fun _ _ h => h) (pixWrite := fun _ _ _ h _ => h)
    (reply := fun _ _ h => h) (powerOn := fun _ _ => gridInv_of_empty rfl rfl rfl rfl)
    (soft := fun _ _ => gridInv_of_empty rfl rfl rfl rfl) (illegal := fun _ h => h)
    (config := fun _ h => ⟨fun _ => h, fun _ => h, fun _ => h, fun _ => h, fun _ => h⟩)
    (ok := fun _ hf _ _ h hok => gridInv_stage hf h hok) (error := fun _ _ _ _ h _ => h)

/-! ### The histories and the size registers -/

/-- The four stages before PACK, which write grid memories alone. -/
def gridStages : List (State → Except Raise State) := [genStage, lumaStage, ditherStage, invertStage]

theorem stages_eq : stages = gridStages ++ [packStage] := rfl

/-- The stages before PACK leave OUT, TXT, HEIGHT and WIDTH (R63, R71, R76, R80). -/
theorem gridStage_ok_histories {f : State → Except Raise State} (hf : f ∈ gridStages) {s t : State} (h : f s = .ok t) :
    t.out = s.out ∧ t.txt = s.txt ∧ t.height = s.height ∧ t.width = s.width := by
  simp only [gridStages, List.mem_cons, List.not_mem_nil, or_false] at hf
  rcases hf with rfl | rfl | rfl | rfl
  · obtain ⟨-, rfl⟩ := genStage_ok.1 h
    exact ⟨rfl, rfl, rfl, rfl⟩
  · obtain ⟨-, -, -, rfl⟩ := lumaStage_ok.1 h
    exact ⟨rfl, rfl, rfl, rfl⟩
  · obtain ⟨-, -, -, -, -, rfl⟩ := ditherStage_ok.1 h
    exact ⟨rfl, rfl, rfl, rfl⟩
  · obtain ⟨-, -, -, rfl⟩ := invertStage_ok.1 h
    exact ⟨rfl, rfl, rfl, rfl⟩

/-- PACK emits its frame with that frame's text (R27, R83). -/
theorem packStage_ok_emit {s t : State} (h : packStage s = .ok t) : t = s.emit s.packFrame s.packFrame.text := by
  obtain ⟨-, -, -, rfl⟩ := packStage_ok.1 h
  rw [packText_eq]

/-- Everything a stage that answers does to OUT, TXT, HEIGHT and WIDTH (R24, R26, R27). -/
theorem stage_ok_histories {f : State → Except Raise State} (hf : f ∈ stages) {s t : State} (h : f s = .ok t) :
    (t.out = s.out ∧ t.txt = s.txt ∧ t.height = s.height ∧ t.width = s.width) ∨
      t = s.emit s.packFrame s.packFrame.text := by
  rw [stages_eq, List.mem_append, List.mem_singleton] at hf
  rcases hf with hf | rfl
  · exact .inl (gridStage_ok_histories hf h)
  · exact .inr (packStage_ok_emit h)

/-- Emitting a well-formed frame with its text keeps the histories. -/
theorem historyInv_emit {s : State} {f : Frame} (h : s.historyInv) (hf : f.inv) : (s.emit f f.text).historyInv := by
  obtain ⟨hframes, htxt⟩ := h
  constructor
  · intro g hg
    rcases List.mem_append.1 hg with hold | hnew
    · exact hframes g hold
    · rwa [List.mem_singleton.1 hnew]
  · simp [htxt]

theorem historyInv_stage {f : State → Except Raise State} (hf : f ∈ stages) {s t : State} (h : s.historyInv)
    (hok : f s = .ok t) : t.historyInv := by
  rcases stage_ok_histories hf hok with ⟨hout, htxt, -, -⟩ | rfl
  · simpa only [State.historyInv, hout, htxt] using h
  · exact historyInv_emit h (packFrame_inv s)

/-- Settles O53: PACK's frame is well formed and its text is the text it emits; nothing else writes the histories but
the reset input, which empties them. -/
theorem stepKeepsTextTheTextOfTheFrames : Obligations.StepKeepsTextTheTextOfTheFrames := fun _ _ =>
  step_keeps (P := State.historyInv) (input := fun _ _ h => h) (pixWrite := fun _ _ _ h _ => h)
    (reply := fun _ _ h => h) (powerOn := fun _ _ => historyInv_of_empty rfl rfl) (soft := fun _ h => h)
    (illegal := fun _ h => h) (config := fun _ h => ⟨fun _ => h, fun _ => h, fun _ => h, fun _ => h, fun _ => h⟩)
    (ok := fun _ hf _ _ h hok => historyInv_stage hf h hok) (error := fun _ _ _ _ h _ => h)

theorem sizeInv_stage {f : State → Except Raise State} (hf : f ∈ stages) {s t : State} (h : s.sizeInv)
    (hok : f s = .ok t) : t.sizeInv := by
  rcases stage_ok_histories hf hok with ⟨hout, -, hheight, hwidth⟩ | rfl
  · simpa only [State.sizeInv, hout, hheight, hwidth] using h
  · exact .inr ⟨s.packFrame, by simp, rfl, rfl⟩

/-- Settles O55: HEIGHT and WIDTH are written with the frame they belong to, and become 0 in the two resets. -/
theorem stepKeepsSizeOfTheLastFrame : Obligations.StepKeepsSizeOfTheLastFrame := fun _ _ =>
  step_keeps (P := State.sizeInv) (input := fun _ _ h => h) (pixWrite := fun _ _ _ h _ => h)
    (reply := fun _ _ h => h) (powerOn := fun _ _ => .inl ⟨rfl, rfl⟩) (soft := fun _ _ => .inl ⟨rfl, rfl⟩)
    (illegal := fun _ h => h) (config := fun _ h => ⟨fun _ => h, fun _ => h, fun _ => h, fun _ => h, fun _ => h⟩)
    (ok := fun _ hf _ _ h hok => sizeInv_stage hf h hok) (error := fun _ _ _ _ h _ => h)

/-- OUT and TXT are those before, or have grown by one frame and its text (R26, R27). -/
def GrowsByAtMostOneFrame (s t : State) : Prop :=
  (t.out = s.out ∧ t.txt = s.txt) ∨ ∃ f : Frame, t.out = s.out ++ [f] ∧ t.txt = s.txt ++ f.text

/-- PACK, alone or after stages that write grid memories, emits at most its own frame (R83, R98). -/
theorem growsByAtMostOneFrame_runStages {fs : List (State → Except Raise State)} (hfs : ∀ f ∈ fs, f ∈ gridStages)
    (s : State) : GrowsByAtMostOneFrame s (runStages (fs ++ [packStage]) s) := by
  induction fs generalizing s with
  | nil =>
    rcases runStages_single (f := packStage) (s := s) rfl with hok | ⟨r, -, hr⟩
    · exact .inr ⟨s.packFrame, by simp [packStage_ok_emit hok]⟩
    · exact .inl (by simp [hr])
  | cons f fs ih =>
    rcases runStages_cases f (fs ++ [packStage]) s with ⟨u, hu, hrun⟩ | ⟨r, -, hrun⟩ <;> rw [List.cons_append, hrun]
    · obtain ⟨hout, htxt, -, -⟩ := gridStage_ok_histories (hfs f (by simp)) hu
      have hrest := ih (fun g hg => hfs g (by simp [hg])) u
      simpa only [GrowsByAtMostOneFrame, hout, htxt] using hrest
    · exact .inl ⟨rfl, rfl⟩

/-- A stage command before PACK leaves OUT and TXT, whether it answers or raises (R106). -/
theorem gridStage_command_histories {f : State → Except Raise State} (hf : f ∈ gridStages) (s : State) :
    (runStages [f] s).out = s.out ∧ (runStages [f] s).txt = s.txt := by
  rcases runStages_single (f := f) (s := s) rfl with hok | ⟨r, -, hr⟩
  · obtain ⟨hout, htxt, -, -⟩ := gridStage_ok_histories hf hok
    exact ⟨hout, htxt⟩
  · rw [hr]
    exact ⟨rfl, rfl⟩

/-- A command leaves the histories, or it is PACK or CONVERT (R83, R98). -/
theorem exec_histories {i : Instr} {s t : State} (h : exec i s = .next t) :
    (t.out = s.out ∧ t.txt = s.txt) ∨ ((i = .pack ∨ i = .convert) ∧ GrowsByAtMostOneFrame s t) := by
  cases i with
  | nop => cases h; exact .inl ⟨rfl, rfl⟩
  | setn v => cases h; exact .inl ⟨rfl, rfl⟩
  | setrows v => cases h; exact .inl ⟨rfl, rfl⟩
  | setcols v => cases h; exact .inl ⟨rfl, rfl⟩
  | setch v => cases h; exact .inl ⟨rfl, rfl⟩
  | pixok v => cases h; exact .inl ⟨rfl, rfl⟩
  | rst => cases h; exact .inl ⟨rfl, rfl⟩
  | gen => cases h; exact .inl (gridStage_command_histories (by simp [gridStages]) s)
  | luma => cases h; exact .inl (gridStage_command_histories (by simp [gridStages]) s)
  | dither => cases h; exact .inl (gridStage_command_histories (by simp [gridStages]) s)
  | invert => cases h; exact .inl (gridStage_command_histories (by simp [gridStages]) s)
  | pack => cases h; exact .inr ⟨.inl rfl, growsByAtMostOneFrame_runStages (fs := []) (by simp) s⟩
  | convert => cases h; exact .inr ⟨.inr rfl, growsByAtMostOneFrame_runStages (fs := gridStages) (fun _ h => h) s⟩

/-- Settles O57: only a command executed with ERR = 0 can write the histories, and of those only PACK and CONVERT,
whose words are read back from the decoded command. -/
theorem historiesOnlyGrowByPackAndConvert : Obligations.HistoriesOnlyGrowByPackAndConvert := by
  intro s t a rest hin hstep hreset
  cases actionEffect_of_step hin hstep with
  | pixWrite => exact .inl ⟨rfl, rfl⟩
  | pixRead => exact .inl ⟨rfl, rfl⟩
  | regRead => exact .inl ⟨rfl, rfl⟩
  | resetInput => exact absurd rfl hreset
  | rst => exact .inl ⟨rfl, rfl⟩
  | discarded => exact .inl ⟨rfl, rfl⟩
  | illegal => exact .inl ⟨rfl, rfl⟩
  | executed w i _ herr hdec hexec =>
    obtain rfl := encode_eq_of_decode_ok hdec
    rcases exec_histories hexec with hsame | ⟨hi, hsame | hgrown⟩
    · exact .inl hsame
    · exact .inl hsame
    · exact .inr ⟨hi.imp (fun h => by rw [h]) (fun h => by rw [h]), herr, hgrown⟩

/-! ### What the commands leave of PIX and of the configuration -/

/-- Everything a command does outside the stages: nothing, or it writes its own register, or it is RST (R56, R99). -/
theorem exec_cases_outsideStages {i : Instr} {s t : State} (h : exec i s = .next t) :
    SameOutsideStages s t ∨ (∃ v, i = .setn v ∧ t = s.setMsize v) ∨ (∃ v, i = .setrows v ∧ t = s.setRows v) ∨
      (∃ v, i = .setcols v ∧ t = s.setCols v) ∨ (∃ v, i = .setch v ∧ t = s.setCh v) ∨
      (∃ v, i = .pixok v ∧ t = s.setPixok v) ∨ (i = .rst ∧ t = s.softReset) := by
  cases i with
  | nop => cases h; exact .inl (.refl s)
  | setn v => cases h; simp
  | setrows v => cases h; simp
  | setcols v => cases h; simp
  | setch v => cases h; simp
  | pixok v => cases h; simp
  | rst => cases h; simp
  | gen => cases h; exact .inl (sameOutsideStages_runStages (by simp [stages]) s)
  | luma => cases h; exact .inl (sameOutsideStages_runStages (by simp [stages]) s)
  | dither => cases h; exact .inl (sameOutsideStages_runStages (by simp [stages]) s)
  | invert => cases h; exact .inl (sameOutsideStages_runStages (by simp [stages]) s)
  | pack => cases h; exact .inl (sameOutsideStages_runStages (by simp [stages]) s)
  | convert => cases h; exact .inl (sameOutsideStages_runStages (by simp [stages]) s)

/-- No command writes the build, PIX or the power-on counter (R41). -/
theorem exec_samePix {i : Instr} {s t : State} (h : exec i s = .next t) : SamePix s t := by
  rcases exec_cases_outsideStages h with hsame | ⟨v, -, rfl⟩ | ⟨v, -, rfl⟩ | ⟨v, -, rfl⟩ | ⟨v, -, rfl⟩ |
    ⟨v, -, rfl⟩ | ⟨-, rfl⟩
  · exact hsame.toSamePix
  all_goals exact ⟨rfl, rfl, rfl⟩

/-- Settles O58: of the host's actions, only its write and the reset input touch PIX, and only the reset input the
power-on counter. -/
theorem pixWrittenOnlyByTheHost : Obligations.PixWrittenOnlyByTheHost := by
  intro s t a rest hin hstep
  have of_same (h : SamePix s t) : t.build = s.build ∧ (a ≠ .resetInput → t.powerOns = s.powerOns ∧
      ((∀ b v, a ≠ .pixWrite b v) → t.pix = s.pix ∧ ∀ b, t.pixByte b = s.pixByte b)) :=
    ⟨h.build, fun _ => ⟨h.powerOns, fun _ => ⟨h.pix, pixByte_congr h.pix h.powerOns⟩⟩⟩
  cases actionEffect_of_step hin hstep with
  | pixWrite b v => exact ⟨rfl, fun _ => ⟨rfl, fun hno => absurd rfl (hno b v)⟩⟩
  | resetInput => exact ⟨rfl, fun hno => absurd rfl hno⟩
  | pixRead => exact of_same ⟨rfl, rfl, rfl⟩
  | regRead => exact of_same ⟨rfl, rfl, rfl⟩
  | rst => exact of_same ⟨rfl, rfl, rfl⟩
  | discarded => exact of_same ⟨rfl, rfl, rfl⟩
  | illegal => exact of_same ⟨rfl, rfl, rfl⟩
  | executed w i _ _ _ hexec =>
    have h := exec_samePix hexec
    exact of_same ⟨h.build, h.pix, h.powerOns⟩

/-- A configuration register that differs was written by its own command, which the action presented (R11 to R15). -/
def ConfigurationWrittenBy (a : HostAction) (s t : State) : Prop :=
  (t.msize ≠ s.msize → ∃ v, a = .command (encode (.setn v)) ∧ t.msize = v) ∧
    (t.rows ≠ s.rows → ∃ v, a = .command (encode (.setrows v)) ∧ t.rows = v) ∧
    (t.cols ≠ s.cols → ∃ v, a = .command (encode (.setcols v)) ∧ t.cols = v) ∧
    (t.ch ≠ s.ch → ∃ v, a = .command (encode (.setch v)) ∧ t.ch = v) ∧
    (t.pixok ≠ s.pixok → ∃ v, a = .command (encode (.pixok v)) ∧ t.pixok = v)

theorem configurationWrittenBy_of_same (a : HostAction) {s t : State} (h : SameConfiguration s t) :
    ConfigurationWrittenBy a s t :=
  ⟨(absurd h.msize ·), (absurd h.rows ·), (absurd h.cols ·), (absurd h.ch ·), (absurd h.pixok ·)⟩

/-- A command other than RST writes at most the register it names (R56). -/
theorem exec_configurationWrittenBy {i : Instr} {s t : State} (hrst : i ≠ .rst) (h : exec i s = .next t) :
    ConfigurationWrittenBy (.command (encode i)) s t := by
  rcases exec_cases_outsideStages h with hsame | ⟨v, rfl, rfl⟩ | ⟨v, rfl, rfl⟩ | ⟨v, rfl, rfl⟩ |
    ⟨v, rfl, rfl⟩ | ⟨v, rfl, rfl⟩ | ⟨hi, -⟩
  · exact configurationWrittenBy_of_same _ hsame.toSameConfiguration
  · exact ⟨fun _ => ⟨v, rfl, rfl⟩, (absurd rfl ·), (absurd rfl ·), (absurd rfl ·), (absurd rfl ·)⟩
  · exact ⟨(absurd rfl ·), fun _ => ⟨v, rfl, rfl⟩, (absurd rfl ·), (absurd rfl ·), (absurd rfl ·)⟩
  · exact ⟨(absurd rfl ·), (absurd rfl ·), fun _ => ⟨v, rfl, rfl⟩, (absurd rfl ·), (absurd rfl ·)⟩
  · exact ⟨(absurd rfl ·), (absurd rfl ·), (absurd rfl ·), fun _ => ⟨v, rfl, rfl⟩, (absurd rfl ·)⟩
  · exact ⟨(absurd rfl ·), (absurd rfl ·), (absurd rfl ·), (absurd rfl ·), fun _ => ⟨v, rfl, rfl⟩⟩
  · exact absurd hi hrst

/-- Settles O56: of the host's actions other than the two resets, only an executed command writes the configuration, and
its word is read back from the decoded command. -/
theorem configurationWrittenOnlyByItsCommand : Obligations.ConfigurationWrittenOnlyByItsCommand := by
  intro s t a rest hin hstep hreset hrst
  change ConfigurationWrittenBy a s t
  cases actionEffect_of_step hin hstep with
  | resetInput => exact absurd rfl hreset
  | rst => exact absurd rfl hrst
  | pixWrite => exact configurationWrittenBy_of_same _ ⟨rfl, rfl, rfl, rfl, rfl⟩
  | pixRead => exact configurationWrittenBy_of_same _ ⟨rfl, rfl, rfl, rfl, rfl⟩
  | regRead => exact configurationWrittenBy_of_same _ ⟨rfl, rfl, rfl, rfl, rfl⟩
  | discarded => exact configurationWrittenBy_of_same _ ⟨rfl, rfl, rfl, rfl, rfl⟩
  | illegal => exact configurationWrittenBy_of_same _ ⟨rfl, rfl, rfl, rfl, rfl⟩
  | executed w i hw _ hdec hexec =>
    have hi : i ≠ .rst := fun hi => hw (eq_rstWord_of_decode (hi ▸ hdec))
    obtain rfl := encode_eq_of_decode_ok hdec
    have hwritten := exec_configurationWrittenBy hi hexec
    exact hwritten

end Sys2Proof.Machine
end

section
/-! SUPPORT. Proofs on the memory and the host's accesses to it (20_memory.md): where the samples lie in PIX, which
bytes of it LUMA reads, and what each host access does. -/

namespace Sys2Proof.Machine

/-! ### Sample addresses -/

/-- A sample address gives back the channel. -/
theorem pixAddr_mod {cols i j k : Nat} (hk : k < 3) : pixAddr cols i j k % 3 = k := by
  unfold pixAddr channels; omega

/-- A sample address gives back the pixel's number in row-major order. -/
theorem pixAddr_div {cols i j k : Nat} (hk : k < 3) : pixAddr cols i j k / 3 = i * cols + j := by
  unfold pixAddr channels; omega

/-- Samples lie in PIX without overlap: the address determines the row, the column and the channel (R31). -/
theorem pixAddr_inj {cols i j k i' j' k' : Nat} (hj : j < cols) (hk : k < 3) (hj' : j' < cols) (hk' : k' < 3)
    (h : pixAddr cols i j k = pixAddr cols i' j' k') : i = i' ∧ j = j' ∧ k = k' := by
  have hpixel : i * cols + j = i' * cols + j' := by rw [← pixAddr_div hk, h, pixAddr_div hk']
  have hchannel : k = k' := by rw [← pixAddr_mod (cols := cols) hk, h, pixAddr_mod hk']
  have hcol : j = j' := by
    have hmod := congrArg (· % cols) hpixel
    simpa [Nat.mod_eq_of_lt, hj, hj'] using hmod
  have hrow : i = i' := by
    subst hcol
    exact Nat.eq_of_mul_eq_mul_right (Nat.zero_lt_of_lt hj) (Nat.add_right_cancel hpixel)
  exact ⟨hrow, hcol, hchannel⟩

/-- The last channel of the last pixel has the largest address of a grid that is not empty (R31). -/
theorem pixAddr_last {rows cols : Nat} (hrows : 1 ≤ rows) (hcols : 1 ≤ cols) :
    pixAddr cols (rows - 1) (cols - 1) 2 = 3 * rows * cols - 1 := by
  obtain ⟨r, rfl⟩ := Nat.exists_eq_add_of_le' hrows
  obtain ⟨c, rfl⟩ := Nat.exists_eq_add_of_le' hcols
  have hsize : 3 * (r + 1) * (c + 1) = 3 * (r * (c + 1) + c) + 3 := by ring
  rw [hsize]; rfl

/-- The samples of a grid of legal dimensions fit in PIX (R5, R36). -/
theorem samples_le_pixcap {s : State} (h : s.dimensionsLegal = true) :
    3 * s.rows.toNat * s.cols.toNat ≤ s.build.pixcap := by
  obtain ⟨-, hrows, -, hcols⟩ := (dimensionsLegal_iff s).1 h
  exact Nat.mul_le_mul (Nat.mul_le_mul_left 3 hrows) hcols

/-- Settles O22, from the bounds of the legal dimensions and the arithmetic of the sample address. -/
theorem sampleAddressesStayInsidePix : Obligations.SampleAddressesStayInsidePix := by
  intro s h
  obtain ⟨hrows, -, hcols, -⟩ := (dimensionsLegal_iff s).1 h
  refine ⟨samples_le_pixcap h, pixAddr_last hrows hcols, fun i hi j hj k hk => ⟨pixAddr_lt hi hj hk, ?_⟩⟩
  intro i' _ j' hj' k' hk' heq
  exact pixAddr_inj hj hk hj' hk' heq

/-! ### The bytes LUMA reads -/

/-- The luminance grid depends on the dimensions and the bytes below 3·ROWS·COLS alone (R31, R75). -/
theorem lumGrid_congr {s s' : State} (hrows : s'.rows = s.rows) (hcols : s'.cols = s.cols)
    (hpix : ∀ a < 3 * s.rows.toNat * s.cols.toNat, s'.pixByte a = s.pixByte a) : s'.lumGrid = s.lumGrid := by
  have hsample : ∀ i < s.rows.toNat, ∀ j < s.cols.toNat, ∀ k < 3, s'.sample i j k = s.sample i j k := by
    intro i hi j hj k hk
    unfold State.sample
    rw [hcols, hpix _ (pixAddr_lt hi hj hk)]
  unfold State.lumGrid
  rw [hrows, hcols]
  refine Grid.build_congr fun i hi j hj => ?_
  have hpixel := hsample i hi j hj
  rw [hpixel 0 (by decide), hpixel 1 (by decide), hpixel 2 (by decide)]

/-- The stage LUMA on other contents of PIX that agree on the grid: the same answer, PIX kept (R75). -/
theorem lumaStage_pix_congr {s : State} {m : Memory}
    (hpix : ∀ a < 3 * s.rows.toNat * s.cols.toNat, State.pixByte { s with pix := m } a = s.pixByte a) :
    (∀ t, lumaStage s = .ok t → lumaStage { s with pix := m } = .ok { t with pix := m }) ∧
      ∀ r, lumaStage s = .error r → lumaStage { s with pix := m } = .error r := by
  constructor
  · intro t hok
    obtain ⟨hpixok, hch, hdim, rfl⟩ := lumaStage_ok.1 hok
    have hgrid : State.lumGrid { s with pix := m } = s.lumGrid := lumGrid_congr rfl rfl hpix
    exact lumaStage_ok.2 ⟨hpixok, hch, hdim, by rw [hgrid]; rfl⟩
  · intro r herr
    have hcause := lumaStage_error.1 herr
    exact lumaStage_error.2 hcause

/-- Settles O23: LUMA answers or raises as its stage does, and the stage does the same on either contents. -/
theorem lumaReadsNoByteBeyondTheGrid : Obligations.LumaReadsNoByteBeyondTheGrid := by
  intro s t m hpix h
  obtain ⟨hsameOk, hsameError⟩ := lumaStage_pix_congr hpix
  rcases runStages_single (Host.Outcome.next.inj h) with hok | ⟨r, herr, rfl⟩
  · exact congrArg Host.Outcome.next (runStages_ok (hsameOk t hok))
  · exact congrArg Host.Outcome.next (runStages_error (hsameError r herr))

/-! ### The host's accesses -/

/-- A host write in range is the write to PIX (R38). -/
theorem performAction_pixWrite {s : State} {a : Nat} (v : Byte) (ha : a < s.build.pixcap) :
    performAction (.pixWrite a v) s = .next (s.writePix a v) := if_pos ha

/-- A host read of PIX in range replies with the byte (R39). -/
theorem performAction_pixRead {s : State} {a : Nat} (ha : a < s.build.pixcap) :
    performAction (.pixRead a) s = .next (s.reply (.pix a (s.pixByte a))) := if_pos ha

/-- A host read of a register in range replies with its value (R39). -/
theorem performAction_regRead {s : State} {k : Nat} (hk : k < 16) :
    performAction (.regRead k) s = .next (s.reply (.reg k (s.readReg k))) := if_pos hk

/-- Dispatch always completes, with or without a fault recorded (R96, R106). -/
theorem present_next (w : Word) (s : State) : ∃ t, present w s = .next t := by
  rcases present_cases w s with ⟨-, h⟩ | ⟨-, -, h⟩ | ⟨-, -, e, -, h⟩ | ⟨-, -, i, -, h⟩
  · exact ⟨_, h⟩
  · exact ⟨_, h⟩
  · exact ⟨_, h⟩
  · rw [h]; exact exec_next i s

/-- An action in range completes (R36). -/
theorem performAction_next {a : HostAction} {s : State} (h : a.allowed s.build = true) :
    ∃ t, performAction a s = .next t := by
  cases a with
  | command w => exact present_next w s
  | pixWrite addr v => exact ⟨_, performAction_pixWrite v (of_decide_eq_true h)⟩
  | pixRead addr => exact ⟨_, performAction_pixRead (of_decide_eq_true h)⟩
  | regRead k => exact ⟨_, performAction_regRead (of_decide_eq_true h)⟩
  | resetInput => exact ⟨_, rfl⟩

/-- An action out of range is refused (R36). -/
theorem performAction_refused {a : HostAction} {s : State} (h : a.allowed s.build = false) :
    ∃ r, performAction a s = .refused r := by
  cases a with
  | command w => simp [HostAction.allowed] at h
  | pixWrite addr v => exact ⟨_, if_neg (of_decide_eq_false h)⟩
  | pixRead addr => exact ⟨_, if_neg (of_decide_eq_false h)⟩
  | regRead k => exact ⟨_, if_neg (of_decide_eq_false h)⟩
  | resetInput => simp [HostAction.allowed] at h

/-- With no action left a step answers the state it started from (R113). -/
theorem step_idle {s : State} (hin : s.input = []) : step s = .next s := by simp [step, performNext, hin]

/-- A step is refused exactly when its action is out of range (R36). -/
theorem step_refused_iff {s : State} {a : HostAction} {rest : List HostAction} (hin : s.input = a :: rest) :
    (∃ r, step s = .refused r) ↔ a.allowed s.build = false := by
  rw [step_of_input hin]
  constructor
  · rintro ⟨r, hr⟩
    by_contra hallowed
    obtain ⟨t, ht⟩ := performAction_next (s := s.withInput rest) (Bool.eq_true_of_not_eq_false hallowed)
    simp [ht] at hr
  · exact performAction_refused (s := s.withInput rest)

/-- Settles O44: the step writes PIX at the action's address, and a write changes the reading of that byte alone. -/
theorem hostPixWriteChangesOneByte : Obligations.HostPixWriteChangesOneByte := by
  intro s a v rest hin ha
  refine ⟨(s.withInput rest).writePix a v, (step_of_input hin).trans (performAction_pixWrite v ha), rfl, ?_, ?_⟩
  · rw [State.pixByte_writePix, if_pos rfl]
  · intro b hb
    rw [State.pixByte_writePix, if_neg hb]
    exact pixByte_congr rfl rfl b

/-- Settles O45: a read of PIX adds its reply, and a read of a register does so by the register read port's rule. -/
theorem hostReadsReturnAndChangeNothing : Obligations.HostReadsReturnAndChangeNothing := by
  refine ⟨fun s a rest hin ha => ?_, fun s k rest hin hk => ?_⟩
  · exact (step_of_input hin).trans (performAction_pixRead ha)
  · obtain ⟨-, hread⟩ := registerReadPortMap s
    exact hread k rest hin hk

/-- Settles O47: by the host's next action, none, in range or out of range; no stopping fault exists to stop with. -/
theorem onlyOutOfRangeHostAccessesAreRefused : Obligations.OnlyOutOfRangeHostAccessesAreRefused := by
  intro s
  refine ⟨?_, nofun, step_idle⟩
  cases hin : s.input with
  | nil => simp [step_idle hin]
  | cons a rest => simp [step_refused_iff hin]

end Sys2Proof.Machine
end

section
/-! SUPPORT. Proofs on command words (30_encoding.md, R45 to R50): reading a command's word back, masks and matches, and
the illegal words. -/

namespace Sys2Proof

/-! ### Reading a command's word back -/

theorem opcodeField_encode (i : Instr) : opcodeField (encode i) = i.mnemonic.opcode :=
  BitVec.extractLsb'_append_eq_left

theorem operandField_encode (i : Instr) : operandField (encode i) = i.operandBits :=
  BitVec.extractLsb'_append_eq_right

/-- An immediate fits its format: nothing of it stands in the must-be-zero field (R46). -/
theorem operandBits_lt (i : Instr) : i.operandBits.toNat < 2 ^ i.mnemonic.format.immWidth := by
  cases i with
  | setn n | setrows n | setcols n | setch n | pixok n =>
    exact (BitVec.toNat_setWidth 24 n).trans_le (Nat.mod_le _ _) |>.trans_lt n.isLt
  | nop | gen | luma | dither | invert | pack | convert | rst => decide

theorem mustBeZeroField_encode (i : Instr) : mustBeZeroField i.mnemonic.format (encode i) = 0#24 := by
  rw [mustBeZeroField_eq_zero, ← operandField_toNat, operandField_encode]
  exact Nat.div_eq_of_lt (operandBits_lt i)

/-- The low bits of a command's word are those of its operand field (R45). -/
theorem extractLsb'_encode {k : Nat} (hk : k ≤ 24) (i : Instr) :
    (encode i).extractLsb' 0 k = i.operandBits.extractLsb' 0 k :=
  BitVec.extractLsb'_append_eq_of_add_le (by omega)

/-- A field's zero extension to the operand field reads back as the field (R48). -/
theorem extractLsb'_zeroExtend {k : Nat} (hk : k ≤ 24) (v : BitVec k) :
    (v.zeroExtend 24).extractLsb' 0 k = v := by
  rw [← BitVec.setWidth_eq_extractLsb' hk, BitVec.zeroExtend_eq_setWidth, BitVec.setWidth_setWidth_of_le _ hk,
    BitVec.setWidth_eq]

theorem withOperand_encode (i : Instr) : i.mnemonic.withOperand (encode i) = i := by
  cases i with
  | setn v => exact congrArg Instr.setn ((extractLsb'_encode (by omega) _).trans (extractLsb'_zeroExtend (by omega) v))
  | setrows v =>
    exact congrArg Instr.setrows ((extractLsb'_encode (by omega) _).trans (extractLsb'_zeroExtend (by omega) v))
  | setcols v =>
    exact congrArg Instr.setcols ((extractLsb'_encode (by omega) _).trans (extractLsb'_zeroExtend (by omega) v))
  | setch v => exact congrArg Instr.setch ((extractLsb'_encode (by omega) _).trans (extractLsb'_zeroExtend (by omega) v))
  | pixok v => exact congrArg Instr.pixok ((extractLsb'_encode (by omega) _).trans (extractLsb'_zeroExtend (by omega) v))
  | nop | gen | luma | dither | invert | pack | convert | rst => rfl

theorem decode_encode (i : Instr) : decode (encode i) = .ok i :=
  decode_ok.2 ⟨i.mnemonic, (opcodeField_encode i).symm, mustBeZeroField_encode i, (withOperand_encode i).symm⟩

/-- The immediates of a command are fields of the width its format admits, so each fits (R51). -/
theorem wellFormed_instr (i : Instr) : i.wellFormed = true := by
  cases i with
  | setn v | setrows v | setcols v | setch v | pixok v => exact decide_eq_true v.isLt
  | nop | gen | luma | dither | invert | pack | convert | rst => rfl

/-- Settles O1: the opcode selects the command's row, its must-be-zero field is 0, and the row reads its immediate. -/
theorem decodeReadsBackEveryEncodedCommand : Obligations.DecodeReadsBackEveryEncodedCommand :=
  fun i => ⟨wellFormed_instr i, decode_encode i⟩

/-- Settles O2: opcode, must-be-zero field and immediate are all the bits of a word. -/
theorem decodedCommandEncodesToItsWord : Obligations.DecodedCommandEncodesToItsWord :=
  fun _ _ => encode_eq_of_decode_ok

/-- Settles O5, by running the decoder on the eight words. -/
theorem wordsWrittenOutFromTheTableDecode : Obligations.WordsWrittenOutFromTheTableDecode := by
  unfold Obligations.WordsWrittenOutFromTheTableDecode
  decide

/-! ### Masks and matches -/

/-- No two rows have one opcode (R47). -/
theorem opcode_injective {m m' : Mnemonic} (h : m.opcode = m'.opcode) : m = m' :=
  Option.some.inj ((mnemonicOf_eq_some.2 h).symm.trans (mnemonicOf_eq_some.2 rfl))

/-- A mask holds ones above the immediate and zeros in it (R46, R47). -/
theorem maskWord_eq (m : Mnemonic) : m.maskWord = BitVec.allOnes 32 <<< m.format.immWidth := by
  cases m <;> rfl

/-- A match is the opcode above a zero operand field (R47). -/
theorem matchWord_toNat (m : Mnemonic) : m.matchWord.toNat = m.opcode.toNat * 2 ^ 24 := by
  cases m <;> rfl

/-- A masked word is the word with its immediate cleared. -/
theorem and_maskWord_toNat (w : Word) (m : Mnemonic) :
    (w &&& m.maskWord).toNat = w.toNat / 2 ^ m.format.immWidth * 2 ^ m.format.immWidth := by
  have hle := (Nat.div_mul_le_self w.toNat (2 ^ m.format.immWidth)).trans_lt w.isLt
  rw [maskWord_eq, ← BitVec.shiftLeft_ushiftRight, BitVec.toNat_shiftLeft, BitVec.toNat_ushiftRight,
    Nat.shiftRight_eq_div_pow, Nat.shiftLeft_eq, Nat.mod_eq_of_lt hle]

/-- A word agrees with a row under its mask exactly when it has the row's opcode and a zero must-be-zero field
(R46, R47). -/
theorem and_maskWord_eq_matchWord_iff (w : Word) (m : Mnemonic) :
    w &&& m.maskWord = m.matchWord ↔ m.opcode = opcodeField w ∧ mustBeZeroField m.format w = 0#24 := by
  rw [← BitVec.toNat_inj, and_maskWord_toNat, matchWord_toNat, ← BitVec.toNat_inj, opcodeField_toNat,
    mustBeZeroField_eq_zero]
  generalize m.opcode.toNat = op
  cases m.format <;> simp only [Format.immWidth] <;> omega

/-- A word decodes to a command of a row exactly when it agrees with the row under its mask (R47). -/
theorem decode_mnemonic_iff (w : Word) (m : Mnemonic) :
    (∃ i, decode w = .ok i ∧ i.mnemonic = m) ↔ w &&& m.maskWord = m.matchWord := by
  rw [and_maskWord_eq_matchWord_iff]
  constructor
  · rintro ⟨i, hdec, rfl⟩
    obtain ⟨m', hop, hzero, rfl⟩ := decode_ok.1 hdec
    rw [mnemonic_withOperand]
    exact ⟨hop, hzero⟩
  · rintro ⟨hop, hzero⟩
    exact ⟨m.withOperand w, decode_ok.2 ⟨m, hop, hzero, rfl⟩, mnemonic_withOperand m w⟩

/-- Settles O3: masking leaves opcode and must-be-zero field, and no two rows have one opcode. -/
theorem commandExactlyWhenMaskedWordMatches : Obligations.CommandExactlyWhenMaskedWordMatches := by
  refine ⟨decode_mnemonic_iff, fun w m m' h h' => ?_⟩
  obtain ⟨hop, -⟩ := (and_maskWord_eq_matchWord_iff w m).1 h
  obtain ⟨hop', -⟩ := (and_maskWord_eq_matchWord_iff w m').1 h'
  exact opcode_injective (hop.trans hop'.symm)

/-! ### Illegal words -/

/-- A word is illegal when no row has its opcode, or the row that has it finds its must-be-zero field not 0 (R49). -/
theorem decode_error_iff (w : Word) : (∃ e, decode w = .error e) ↔
    (∀ m : Mnemonic, m.opcode.toNat ≠ w.toNat / 2 ^ 24) ∨
      ∃ m : Mnemonic, m.opcode.toNat = w.toNat / 2 ^ 24 ∧ w.toNat % 2 ^ 24 / 2 ^ m.format.immWidth ≠ 0 := by
  simp only [← opcodeField_toNat, BitVec.toNat_inj, ne_eq, ← mustBeZeroField_eq_zero]
  cases hdec : decode w with
  | ok i =>
    obtain ⟨m, hop, hzero, -⟩ := decode_ok.1 hdec
    simp only [reduceCtorEq, exists_false, false_iff, not_or, not_forall, not_not, not_exists, not_and]
    exact ⟨⟨m, hop⟩, fun m' hop' => opcode_injective (hop'.trans hop.symm) ▸ hzero⟩
  | error e =>
    simp only [Except.error.injEq, exists_eq', true_iff]
    by_contra! hlegal
    obtain ⟨⟨m, hop⟩, hzero⟩ := hlegal
    rw [decode_ok.2 ⟨m, hop, hzero m hop, rfl⟩] at hdec
    cases hdec

/-- The opcodes that no row has (R49). -/
theorem forall_opcode_ne_iff {op : Nat} (hop : op < 256) : (∀ m : Mnemonic, m.opcode.toNat ≠ op) ↔
    (6 ≤ op ∧ op ≤ 0x0F) ∨ (0x15 ≤ op ∧ op ≤ 0x1E) ∨ (0x20 ≤ op ∧ op ≤ 0xFE) := by
  constructor
  · intro h
    have hrows : op ∉ Mnemonic.all.map fun m => m.opcode.toNat := by simpa using fun m _ => h m
    simp only [Mnemonic.all, Mnemonic.opcode, List.map_cons, List.map_nil, BitVec.toNat_ofNat, Nat.reducePow,
      Nat.reduceMod, List.mem_cons, List.not_mem_nil, or_false, not_or] at hrows
    omega
  · rintro hgap m rfl
    revert hgap
    cases m <;> decide

/-- The must-be-zero fields of the rows, one clause a format (R46, R47). -/
theorem exists_field_ne_zero_iff (op field : Nat) :
    (∃ m : Mnemonic, m.opcode.toNat = op ∧ field / 2 ^ m.format.immWidth ≠ 0) ↔
      (1 ≤ op ∧ op ≤ 3 ∧ field / 2 ^ 16 ≠ 0) ∨ (op = 4 ∧ field / 2 ^ 8 ≠ 0) ∨ (op = 5 ∧ field / 2 ≠ 0) ∨
        ((op = 0 ∨ (0x10 ≤ op ∧ op ≤ 0x14) ∨ op = 0x1F ∨ op = 0xFF) ∧ field ≠ 0) := by
  constructor
  · rintro ⟨m, rfl, hfield⟩
    cases m with
    | setn | setrows | setcols => exact .inl ⟨by decide, by decide, hfield⟩
    | setch => exact .inr (.inl ⟨rfl, hfield⟩)
    | pixok => exact .inr (.inr (.inl ⟨rfl, hfield⟩))
    | nop | gen | luma | dither | invert | pack | convert | rst =>
      exact .inr (.inr (.inr ⟨by decide, fun h0 => hfield (by rw [h0, Nat.zero_div])⟩))
  · rintro (⟨hlo, hhi, hfield⟩ | ⟨rfl, hfield⟩ | ⟨rfl, hfield⟩ | ⟨hop, hfield⟩)
    · interval_cases op
      exacts [⟨.setn, rfl, hfield⟩, ⟨.setrows, rfl, hfield⟩, ⟨.setcols, rfl, hfield⟩]
    · exact ⟨.setch, rfl, hfield⟩
    · exact ⟨.pixok, rfl, hfield⟩
    · rw [← Nat.div_one field] at hfield
      rcases hop with rfl | ⟨hlo, hhi⟩ | rfl | rfl
      · exact ⟨.nop, rfl, hfield⟩
      · interval_cases op
        exacts [⟨.gen, rfl, hfield⟩, ⟨.luma, rfl, hfield⟩, ⟨.dither, rfl, hfield⟩, ⟨.invert, rfl, hfield⟩,
          ⟨.pack, rfl, hfield⟩]
      · exact ⟨.convert, rfl, hfield⟩
      · exact ⟨.rst, rfl, hfield⟩

end Sys2Proof

namespace Sys2Proof.Machine

/-- An illegal word with no fault recorded raises IllegalCommand in stage 7 (R49, R96). -/
theorem present_illegal {w : Word} {e : IllegalWord} {s : State} (hdec : decode w = .error e) (herr : s.err = 0#3) :
    present w s = .next (s.takeFault ⟨.illegalCommand, .commandDecode⟩) := by
  have hw : w ≠ rstWord := by rintro rfl; simp [decode_rstWord] at hdec
  simp [present, hw, herr, hdec]

/-- With a fault recorded, an illegal word is discarded as any other but RST's (R49, R96). -/
theorem present_illegal_discarded {w : Word} {e : IllegalWord} {s : State} (hdec : decode w = .error e)
    (herr : s.err ≠ 0#3) : present w s = .next s := by
  have hw : w ≠ rstWord := by rintro rfl; simp [decode_rstWord] at hdec
  simp [present, hw, herr]

/-- Settles O4: the illegal words by the table's rows, and the two ways dispatch answers one. -/
theorem illegalWordsAreThoseOfTheRuleAndRaise : Obligations.IllegalWordsAreThoseOfTheRuleAndRaise := by
  refine ⟨fun w => ?_, fun s w rest e hin hdec => ⟨fun herr => ?_, fun herr => ?_⟩, ?_⟩
  · rw [decode_error_iff, forall_opcode_ne_iff (Nat.div_lt_of_lt_mul w.isLt), exists_field_ne_zero_iff]
    simp only [or_assoc]
  · exact (step_of_input hin).trans (present_illegal (s := s.withInput rest) hdec herr)
  · exact (step_of_input hin).trans (present_illegal_discarded (s := s.withInput rest) hdec herr)
  · intro w hw
    simp only [List.mem_cons, List.not_mem_nil, or_false] at hw
    rcases hw with rfl | rfl | rfl | rfl <;> exact ⟨_, rfl⟩

end Sys2Proof.Machine
end

section
/-! SUPPORT. Proofs on the two outputs (30_encoding.md): the items of the record stream as numbers (R53) and the
characters of the text (R54). -/

namespace Sys2Proof.Machine

/-! ### The record stream -/

/-- Two fields side by side as a number: the upper one above the lower one's width (R53). -/
theorem toNat_append_eq_add {k l : Nat} (a : BitVec k) (b : BitVec l) :
    (a ++ b).toNat = a.toNat * 2 ^ l + b.toNat := by
  rw [BitVec.toNat_append, ← Nat.shiftLeft_add_eq_or_of_lt b.isLt, Nat.shiftLeft_eq]

theorem Group.item_toNat {g : Group} (h : g.nbits ≤ 8) :
    g.item.toNat = 2 * 2 ^ 32 + g.nbits * 2 ^ 8 + g.value.toNat := by
  have hn : g.nbits % 2 ^ 4 = g.nbits := Nat.mod_eq_of_lt (by omega)
  simp only [Group.item, toNat_append_eq_add, BitVec.toNat_ofNat, hn]
  omega

/-- The fields a record item has room for: positions and source columns of 16 bits, bit counts up to 8 (R26, R53). -/
def Column.Fits (c : Column) : Prop := c.c < 65536 ∧ c.s < 65536 ∧ ∀ g ∈ c.groups, g.nbits ≤ 8

theorem Column.items_toNat {c : Column} (h : c.Fits) : c.items.map (fun item => item.toNat) =
    (1 * 2 ^ 32 + c.c * 2 ^ 16 + c.s) :: c.groups.map fun g => 2 * 2 ^ 32 + g.nbits * 2 ^ 8 + g.value.toNat := by
  obtain ⟨hc, hs, hgroups⟩ := h
  rw [Column.items, List.map_cons, List.map_map]
  congr 1
  · simp only [toNat_append_eq_add, BitVec.toNat_ofNat, Nat.mod_eq_of_lt (show c.c < 2 ^ 16 from hc),
      Nat.mod_eq_of_lt (show c.s < 2 ^ 16 from hs)]
    omega
  · exact List.map_congr_left fun g hg => Group.item_toNat (hgroups g hg)

theorem Frame.items_toNat {f : Frame} (h : ∀ c ∈ f.columns, c.Fits) : f.items.map (fun item => item.toNat) =
    (0 * 2 ^ 32 + f.height.toNat * 2 ^ 16 + f.width.toNat) ::
      (f.columns.flatMap (fun c => (1 * 2 ^ 32 + c.c * 2 ^ 16 + c.s) ::
        c.groups.map fun g => 2 * 2 ^ 32 + g.nbits * 2 ^ 8 + g.value.toNat) ++ [3 * 2 ^ 32]) := by
  rw [Frame.items, List.map_cons, List.map_append, List.map_flatMap]
  congr 1
  · simp only [toNat_append_eq_add, BitVec.toNat_ofNat]
    omega
  · congr 1
    exact List.flatMap_congr fun c hc => Column.items_toNat (h c hc)

/-- A column of a well-formed frame: its position, its source column, and its groups' bit counts (R26). -/
theorem Frame.inv_column {f : Frame} (h : f.inv) {c : Column} (hc : c ∈ f.columns) :
    c.c < f.width.toNat ∧ c.s = src c.c f.width.toNat ∧
      c.groups.map Group.nbits = (List.range (nGroups f.height.toNat)).map (groupBits f.height.toNat) := by
  obtain ⟨hcolumns, -⟩ := h
  have hmem := List.mem_map_of_mem (f := fun c : Column => (c.c, c.s, c.groups.map Group.nbits)) hc
  rw [hcolumns] at hmem
  obtain ⟨k, hk, he⟩ := List.mem_map.1 hmem
  obtain ⟨rfl, hs, hgroups⟩ : k = c.c ∧ src k f.width.toNat = c.s ∧ _ = c.groups.map Group.nbits := by
    simpa only [Prod.mk.injEq] using he
  exact ⟨List.mem_range.1 hk, hs.symm, hgroups.symm⟩

/-- The columns of a well-formed frame have fields a record item has room for (R26). -/
theorem Frame.inv_fits {f : Frame} (h : f.inv) {c : Column} (hc : c ∈ f.columns) : c.Fits := by
  obtain ⟨hpos, hsrc, -⟩ := Frame.inv_column h hc
  have hwidth := f.width.isLt
  have hlt : src c.c f.width.toNat < f.width.toNat := Nat.mod_lt _ (by omega)
  refine ⟨by omega, by omega, fun g hg => ?_⟩
  obtain ⟨-, hvalues⟩ := h
  obtain ⟨-, hbits, -⟩ := hvalues c hc g hg
  exact hbits

/-- A column of a well-formed frame has one item more than it has groups (R26, R53). -/
theorem Frame.inv_items_length {f : Frame} (h : f.inv) {c : Column} (hc : c ∈ f.columns) :
    c.items.length = 1 + nGroups f.height.toNat := by
  obtain ⟨-, -, hgroups⟩ := Frame.inv_column h hc
  have hlen := congrArg List.length hgroups
  rw [List.length_map, List.length_map, List.length_range] at hlen
  rw [Column.items, List.length_cons, List.length_map, hlen, Nat.add_comm]

theorem Frame.items_length {f : Frame} (h : f.inv) :
    f.items.length = 2 + f.width.toNat * (1 + nGroups f.height.toNat) := by
  have hcolumns : f.columns.length = f.width.toNat := by
    obtain ⟨hlist, -⟩ := h
    simpa only [List.length_map, List.length_range] using congrArg List.length hlist
  have hlengths : f.columns.map (fun c => c.items.length) =
      f.columns.map fun _ => 1 + nGroups f.height.toNat :=
    List.map_congr_left fun c hc => Frame.inv_items_length h hc
  rw [Frame.items, List.length_cons, List.length_append, List.length_flatMap, hlengths, List.map_const',
    List.sum_replicate, hcolumns, smul_eq_mul, List.length_singleton]
  omega

/-- Settles O34: the fields of each item as numbers, and the bounds and lengths a well-formed frame gives. -/
theorem recordStreamItemsHaveTheirFields : Obligations.RecordStreamItemsHaveTheirFields :=
  ⟨fun _ => rfl, fun _ h => Frame.items_toNat h, fun _ h _ hc => Frame.inv_fits h hc, fun _ h => Frame.items_length h,
    fun _ h => Group.item_toNat h⟩

/-! ### The characters of the text -/

theorem hexDigit_mem_textAlphabet : ∀ d < 16, hexDigit d ∈ textAlphabet := by decide

theorem hexLit_subset_textAlphabet {v : Nat} (h : v < 256) : hexLit v ⊆ textAlphabet := by
  have hzero : 0x30#8 ∈ textAlphabet := by decide
  have hx : 0x78#8 ∈ textAlphabet := by decide
  unfold hexLit
  split
  · have hd := hexDigit_mem_textAlphabet v ‹_›
    simp [hzero, hx, hd]
  · have hhi := hexDigit_mem_textAlphabet (v / 16) (by omega)
    have hlo := hexDigit_mem_textAlphabet (v % 16) (by omega)
    simp [hzero, hx, hhi, hlo]

theorem joinLiterals_subset_textAlphabet {values : List Nat} (h : ∀ v ∈ values, v < 256) :
    joinLiterals values ⊆ textAlphabet := by
  induction values with
  | nil => exact List.nil_subset _
  | cons v vs ih =>
    have hv := hexLit_subset_textAlphabet (h v List.mem_cons_self)
    cases vs with
    | nil => exact hv
    | cons u us =>
      have hsep : sep ⊆ textAlphabet := by decide
      exact List.append_subset.2 ⟨List.append_subset.2 ⟨hv, hsep⟩, ih fun w hw => h w (List.mem_cons_of_mem v hw)⟩

theorem Column.text_subset_textAlphabet (c : Column) : c.text ⊆ textAlphabet := by
  refine List.append_subset.2 ⟨joinLiterals_subset_textAlphabet fun v hv => ?_, by decide⟩
  obtain ⟨g, -, rfl⟩ := List.mem_map.1 hv
  exact g.value.isLt

theorem Frame.text_subset_textAlphabet (f : Frame) : f.text ⊆ textAlphabet := fun b hb => by
  obtain ⟨c, -, hc⟩ := List.mem_flatMap.1 hb
  exact Column.text_subset_textAlphabet c hc

theorem textAlphabet_stage {f : State → Except Raise State} (hf : f ∈ stages) {s t : State}
    (h : s.txt ⊆ textAlphabet) (hok : f s = .ok t) : t.txt ⊆ textAlphabet := by
  rcases stage_ok_histories hf hok with ⟨-, htxt, -, -⟩ | rfl
  · rwa [htxt]
  · exact List.append_subset.2 ⟨h, Frame.text_subset_textAlphabet _⟩

/-- Settles O54: TXT grows by the text of a frame alone, which is literals, separators and line ends; the reset input
empties it. -/
theorem stepKeepsTextInItsAlphabet : Obligations.StepKeepsTextInItsAlphabet := fun _ _ =>
  step_keeps (P := fun s => s.txt ⊆ textAlphabet) (input := fun _ _ h => h) (pixWrite := fun _ _ _ h _ => h)
    (reply := fun _ _ h => h) (powerOn := fun _ _ => List.nil_subset _) (soft := fun _ h => h)
    (illegal := fun _ h => h) (config := fun _ h => ⟨fun _ => h, fun _ => h, fun _ => h, fun _ => h, fun _ => h⟩)
    (ok := fun _ hf _ _ h hok => textAlphabet_stage hf h hok) (error := fun _ _ _ _ h _ => h)

end Sys2Proof.Machine
end

section
/-! SUPPORT. Proofs on the assembler (R51, R52, 30_encoding.md): what a line says stands for its host actions, and the
text of a line is read as what it says. -/

namespace Sys2Proof.Machine

/-! ### From a line to its host actions -/

/-- A command written with its own operand is the command (R51). -/
theorem instr?_written (i : Instr) : i.written.instr? = some i := by
  have hwf : i.written.wellFormed = true := wellFormed_instr i
  rw [WrittenCommand.instr?, if_pos hwf]
  cases i with
  | setn v | setrows v | setcols v | setch v | pixok v =>
    simp only [Instr.written, Option.getD_some, BitVec.ofNat_toNat, BitVec.setWidth_eq]
  | nop | gen | luma | dither | invert | pack | convert | rst => rfl

theorem actions_written (i : Instr) : AsmLine.actions (.command i.written) = some [.command (encode i)] := by
  rw [AsmLine.actions, instr?_written]
  rfl

/-- An ill-formed written command stands for nothing (R51). -/
theorem actions_of_not_wellFormed {c : WrittenCommand} (h : c.wellFormed = false) :
    AsmLine.actions (.command c) = none := by
  simp [AsmLine.actions, WrittenCommand.instr?, h]

theorem actions_setdim (r c : Half) : AsmLine.actions (.setdim r.toNat c.toNat) =
    some [.command (encode (.setrows r)), .command (encode (.setcols c))] := by
  have hrows : (WrittenCommand.mk .setrows (some r.toNat)).instr? = some (.setrows r) := instr?_written (.setrows r)
  have hcols : (WrittenCommand.mk .setcols (some c.toNat)).instr? = some (.setcols c) := instr?_written (.setcols c)
  rw [AsmLine.actions, hrows, hcols]
  rfl

theorem actions_pixw (addr : Nat) (vs : List Byte) :
    AsmLine.actions (.pixw addr (vs.map BitVec.toNat)) = some (pixWrites addr vs) := by
  have hfit : ((vs.map BitVec.toNat).all fun v => decide (v < 256)) = true := by
    simpa using fun v _ => BitVec.isLt v
  rw [AsmLine.actions, if_pos hfit, List.map_map]
  simp [Function.comp_def]

/-! ### From the words of a line to what it says -/

/-- A function that answers on every element of a list answers the list of its values. -/
theorem mapM_map_eq_some {α β γ : Type} {f : β → Option γ} {g : α → β} {k : α → γ} (h : ∀ x, f (g x) = some (k x))
    (l : List α) : (l.map g).mapM f = some (l.map k) := by
  rw [List.mapM_map, show f ∘ g = fun x => pure (k x) from funext h, List.mapM_pure]
  rfl

theorem lineOfWords_name (m : Mnemonic) : lineOfWords [Mnemonic.text m] = some (.command ⟨m, none⟩) := by
  cases m <;> rfl

theorem lineOfWords_operand (m : Mnemonic) {word : List Char} {v : Nat} (h : operand? word = some v) :
    lineOfWords [Mnemonic.text m, word] = some (.command ⟨m, some v⟩) := by
  have hline : lineOfWords [Mnemonic.text m, word] = (operand? word).map fun v => .command ⟨m, some v⟩ := by
    cases m <;> rfl
  rw [hline, h]
  rfl

theorem lineOfWords_setdim {rword cword : List Char} {r c : Nat} (hr : operand? rword = some r)
    (hc : operand? cword = some c) :
    lineOfWords [['S', 'E', 'T', 'D', 'I', 'M'], rword, [','], cword] = some (.setdim r c) := by
  simp [lineOfWords, hr, hc]

theorem lineOfWords_regr {word : List Char} {k : Nat} (h : operand? word = some k) :
    lineOfWords [['R', 'E', 'G', 'R'], word] = some (.regr k) := by
  simp [lineOfWords, h]

theorem lineOfWords_pixw {addrWord : List Char} {words : List (List Char)} {addr : Nat} {values : List Nat}
    (haddr : operand? addrWord = some addr) (hwords : words ≠ []) (h : words.mapM operand? = some values) :
    lineOfWords (['P', 'I', 'X', 'W'] :: addrWord :: [','] :: words) = some (.pixw addr values) := by
  cases words with
  | nil => exact absurd rfl hwords
  | cons v vs => simp only [lineOfWords, haddr, h, Option.bind_some, Option.map_some]

/-! ### From the text of a line to its words -/

section
variable {tail : List Char} (ht : tail = [] ∨ ∃ comment, tail = ';' :: comment)
include ht

/-- The words of a command's line: its mnemonic, and its operand's numeral if it has one (R51). -/
theorem wordsFrom_writtenText {numeral : Nat → List Char} (hn : numeral ∈ [decimal, hexadecimal])
    (c : WrittenCommand) : wordsFrom [] (writtenText numeral c ++ tail) =
      Mnemonic.text c.mnemonic :: c.operand.toList.map numeral := by
  obtain ⟨hname, hchars⟩ := mnemonic_text_word c.mnemonic
  obtain ⟨m, _ | v⟩ := c
  · rw [writtenText, List.append_nil]
    exact wordsFrom_last hchars hname ht
  · obtain ⟨-, hv, hvchars⟩ := operand?_numeral hn v
    rw [writtenText, List.append_assoc, List.cons_append, wordsFrom_space hchars hname, wordsFrom_last hvchars hv ht]
    rfl

/-- The words of a list of numerals with a space between them (R51). -/
theorem wordsFrom_numerals {numeral : Nat → List Char} (hn : numeral ∈ [decimal, hexadecimal]) (v : Nat)
    (vs : List Nat) : wordsFrom [] (numeral v ++ (vs.flatMap (fun u => ' ' :: numeral u) ++ tail)) =
      numeral v :: vs.map numeral := by
  induction vs generalizing v with
  | nil =>
    obtain ⟨-, hv, hchars⟩ := operand?_numeral hn v
    exact wordsFrom_last hchars hv ht
  | cons u us ih =>
    obtain ⟨-, hv, hchars⟩ := operand?_numeral hn v
    rw [List.flatMap_cons, List.cons_append, List.cons_append, wordsFrom_space hchars hv, List.append_assoc, ih u,
      List.map_cons]

/-! ### From the text of a line to its host actions -/

theorem assembleLine_writtenText {numeral : Nat → List Char} (hn : numeral ∈ [decimal, hexadecimal])
    (c : WrittenCommand) : assembleLine (writtenText numeral c ++ tail) = AsmLine.actions (.command c) := by
  rw [assembleLine, wordsFrom_writtenText ht hn]
  obtain ⟨m, _ | v⟩ := c
  · exact congrArg (Option.bind · AsmLine.actions) (lineOfWords_name m)
  · obtain ⟨hread, -, -⟩ := operand?_numeral hn v
    exact congrArg (Option.bind · AsmLine.actions) (lineOfWords_operand m hread)

theorem assembleLine_setdim {numeral : Nat → List Char} (hn : numeral ∈ [decimal, hexadecimal]) (r c : Half) :
    assembleLine (['S', 'E', 'T', 'D', 'I', 'M', ' '] ++ numeral r.toNat ++ [',', ' '] ++ numeral c.toNat ++ tail) =
      some [.command (encode (.setrows r)), .command (encode (.setcols c))] := by
  obtain ⟨hr, hrne, hrchars⟩ := operand?_numeral hn r.toNat
  obtain ⟨hc, hcne, hcchars⟩ := operand?_numeral hn c.toNat
  have hwords : wordsFrom []
      (['S', 'E', 'T', 'D', 'I', 'M'] ++ ' ' :: (numeral r.toNat ++ ',' :: ' ' :: (numeral c.toNat ++ tail))) =
        [['S', 'E', 'T', 'D', 'I', 'M'], numeral r.toNat, [','], numeral c.toNat] := by
    rw [wordsFrom_space (by simp [wordChar]) (by simp), wordsFrom_comma hrchars hrne, wordsFrom_skip,
      wordsFrom_last hcchars hcne ht]
  simp only [List.append_assoc, List.cons_append, List.nil_append] at hwords ⊢
  rw [assembleLine, hwords, lineOfWords_setdim hr hc]
  exact actions_setdim r c

theorem assembleLine_stages :
    assembleLine (['S', 'T', 'A', 'G', 'E', 'S'] ++ tail) = some (stageCommands.map commandAction) := by
  rw [assembleLine, wordsFrom_last (by simp [wordChar]) (by simp) ht]
  rfl

theorem assembleLine_pixw {numeral : Nat → List Char} (hn : numeral ∈ [decimal, hexadecimal]) (addr : Nat) (v : Byte)
    (vs : List Byte) : assembleLine (['P', 'I', 'X', 'W', ' '] ++ numeral addr ++ [','] ++
      (v :: vs).flatMap (fun u => ' ' :: numeral u.toNat) ++ tail) = some (pixWrites addr (v :: vs)) := by
  obtain ⟨haddr, hne, hchars⟩ := operand?_numeral hn addr
  have hsamples := wordsFrom_numerals ht hn v.toNat (vs.map BitVec.toNat)
  rw [List.flatMap_map] at hsamples
  have hwords : wordsFrom [] (['P', 'I', 'X', 'W'] ++ ' ' :: (numeral addr ++ ',' :: ' ' ::
      (numeral v.toNat ++ (vs.flatMap (fun u => ' ' :: numeral u.toNat) ++ tail)))) =
        ['P', 'I', 'X', 'W'] :: numeral addr :: [','] :: ((v :: vs).map BitVec.toNat).map numeral := by
    rw [wordsFrom_space (by simp [wordChar]) (by simp), wordsFrom_comma hchars hne, wordsFrom_skip, hsamples]
    rfl
  have hread : (((v :: vs).map BitVec.toNat).map numeral).mapM operand? = some ((v :: vs).map BitVec.toNat) := by
    have hid := mapM_map_eq_some (fun n => (operand?_numeral hn n).1) ((v :: vs).map BitVec.toNat)
    rwa [List.map_id'] at hid
  simp only [List.flatMap_cons, List.append_assoc, List.cons_append, List.nil_append] at hwords ⊢
  rw [assembleLine, hwords, lineOfWords_pixw haddr (by simp) hread]
  exact actions_pixw addr (v :: vs)

theorem assembleLine_regr {numeral : Nat → List Char} (hn : numeral ∈ [decimal, hexadecimal]) (k : Nat) :
    assembleLine (['R', 'E', 'G', 'R', ' '] ++ numeral k ++ tail) = some [.regRead k] := by
  obtain ⟨hread, hne, hchars⟩ := operand?_numeral hn k
  have hwords : wordsFrom [] (['R', 'E', 'G', 'R'] ++ ' ' :: (numeral k ++ tail)) =
      [['R', 'E', 'G', 'R'], numeral k] := by
    rw [wordsFrom_space (by simp [wordChar]) (by simp), wordsFrom_last hchars hne ht]
  simp only [List.cons_append, List.nil_append] at hwords ⊢
  rw [assembleLine, hwords, lineOfWords_regr hread]
  rfl

/-- A listing of commands, one a line (R51). -/
theorem assemble_commands {numeral : Nat → List Char} (hn : numeral ∈ [decimal, hexadecimal]) (is : List Instr) :
    assemble (is.map fun i => writtenText numeral i.written ++ tail) = some (is.map fun i => .command (encode i)) := by
  have hlines := mapM_map_eq_some (f := assembleLine) (g := fun i : Instr => writtenText numeral i.written ++ tail)
    (fun i => (assembleLine_writtenText ht hn i.written).trans (actions_written i)) is
  rw [assemble, hlines, Option.map_some, ← List.flatMap_def, ← List.map_eq_flatMap]

end

/-- Settles O8: a line's text gives its words, its words what it says, and what it says its host actions. -/
theorem assemblyOfCommandsAndPseudoCommands : Obligations.AssemblyOfCommandsAndPseudoCommands := by
  refine ⟨actions_written, actions_setdim, by decide, fun _ => actions_of_not_wellFormed, fun numeral hn tail ht => ?_⟩
  exact ⟨fun i => (assembleLine_writtenText ht hn _).trans (actions_written i),
    fun c hc => (assembleLine_writtenText ht hn c).trans (actions_of_not_wellFormed hc),
    assembleLine_setdim ht hn, assembleLine_stages ht, assembleLine_pixw ht hn, assembleLine_regr ht hn,
    assemble_commands ht hn⟩

end Sys2Proof.Machine
end

section
/-! SUPPORT. Proofs on the configuration commands (40_config_commands.md, R56 to R62): the word of a command with an
immediate, and the stage commands that report what a configuration command has left. -/

namespace Sys2Proof

/-! ### The word of a command with an immediate -/

/-- A match is the opcode above a zero operand field (R47), as a word. -/
theorem matchWord_eq_append (m : Mnemonic) : m.matchWord = m.opcode ++ 0#24 := by cases m <;> rfl

/-- A command's word is its row's match with the operand field in the zeros (R45, R47). -/
theorem encode_eq_matchWord_or (i : Instr) : encode i = i.mnemonic.matchWord ||| i.operandBits.zeroExtend 32 := by
  have hbits : i.operandBits.zeroExtend 32 = 0#8 ++ i.operandBits := BitVec.setWidth_eq_append (by omega)
  rw [matchWord_eq_append, hbits, BitVec.or_append, BitVec.or_zero, BitVec.zero_or, encode]

/-- An immediate extended to the operand field and then to the word is the immediate extended to the word (R48). -/
theorem encode_of_immediate {i : Instr} {k : Nat} {v : BitVec k} (hk : k ≤ 24) (h : i.operandBits = v.zeroExtend 24) :
    encode i = i.mnemonic.matchWord ||| v.zeroExtend 32 := by
  have hext : (v.zeroExtend 24).zeroExtend 32 = v.zeroExtend 32 := by
    simp only [BitVec.zeroExtend_eq_setWidth]
    exact BitVec.setWidth_setWidth (by omega)
  rw [encode_eq_matchWord_or, h, hext]

end Sys2Proof

namespace Sys2Proof.Machine

/-! ### What dispatch does with the word of NOP -/

/-- With a fault recorded, every word but RST's is discarded (R96). -/
theorem present_discarded {w : Word} {s : State} (hw : w ≠ rstWord) (herr : s.err ≠ 0#3) : present w s = .next s := by
  simp [present, hw, herr]

/-- Executed or discarded, NOP has the same null effect (R57). -/
theorem present_nop (s : State) : present (encode .nop) s = .next s := by
  by_cases herr : s.err = 0#3
  · exact present_eq_exec (decode_encode .nop) (.inl herr)
  · exact present_discarded (by decide) herr

/-- Settles O9: the step presents the word of NOP, which dispatch executes or discards. -/
theorem nopChangesNothing : Obligations.NopChangesNothing :=
  ⟨rfl, fun _ => rfl, fun s rest hin => (step_of_input hin).trans (present_nop (s.withInput rest))⟩

/-! ### The stage commands on a configuration they refuse -/

section
variable {s : State}

/-- GEN refuses an illegal MSIZE with InvalidParameter and writes nothing else (R63). -/
theorem exec_gen_invalid (h : isValidN s.msize.toNat = false) :
    exec .gen s = .next (s.takeFault ⟨.invalidParameter, .gen⟩) :=
  congrArg Host.Outcome.next (runStages_error (genStage_error.2 ⟨h, rfl⟩))

/-- LUMA refuses a channel count or dimensions that are not legal, once the input is declared available (R71). -/
theorem exec_luma_mismatch (hpixok : s.pixok = 1#1) (h : s.ch ≠ 3#8 ∨ s.dimensionsLegal = false) :
    exec .luma s = .next (s.takeFault ⟨.dimensionMismatch, .luma⟩) :=
  congrArg Host.Outcome.next (runStages_error (lumaStage_error.2 (.inr ⟨hpixok, h, rfl⟩)))

/-- DITHER refuses a luminance grid or a matrix that is valid and not of the configured size (R76). -/
theorem exec_dither_mismatch (hlum : s.lum.valid = 1#1) (hbayer : s.bayer.valid = 1#1)
    (h : s.lum.rows ≠ s.rows ∨ s.lum.cols ≠ s.cols ∨ s.bayer.size ≠ s.msize) :
    exec .dither s = .next (s.takeFault ⟨.dimensionMismatch, .dither⟩) :=
  congrArg Host.Outcome.next (runStages_error (ditherStage_error.2 (.inr ⟨hlum, hbayer, h, rfl⟩)))

/-- INVERT refuses decisions that are valid and not of the configured dimensions (R80). -/
theorem exec_invert_mismatch (hdbit : s.dbit.valid = 1#1) (h : s.dbit.rows ≠ s.rows ∨ s.dbit.cols ≠ s.cols) :
    exec .invert s = .next (s.takeFault ⟨.dimensionMismatch, .invert⟩) :=
  congrArg Host.Outcome.next (runStages_error (invertStage_error.2 (.inr ⟨hdbit, h, rfl⟩)))

/-- PACK refuses stored bits that are valid and not of the configured dimensions (R83). -/
theorem exec_pack_mismatch (hsbit : s.sbit.valid = 1#1) (h : s.sbit.rows ≠ s.rows ∨ s.sbit.cols ≠ s.cols) :
    exec .pack s = .next (s.takeFault ⟨.dimensionMismatch, .pack⟩) :=
  congrArg Host.Outcome.next (runStages_error (packStage_error.2 (.inr ⟨hsbit, h, rfl⟩)))

end

/-! ### The configuration commands -/

/-- SETN accepts these sizes of R58, and none is legal (R64). -/
theorem isValidN_refused : ∀ v ∈ [0#16, 1#16, 6#16, 128#16, 65535#16], isValidN v.toNat = false := by
  simp [isValidN]

/-- Settles O10: SETN writes MSIZE alone, and GEN and DITHER compare the MSIZE it left; 16 is MSIZE's reset value. -/
theorem setnWritesMsizeUnchecked : Obligations.SetnWritesMsizeUnchecked := by
  refine ⟨fun v => encode_of_immediate (i := .setn v) (by omega) rfl, fun _ _ => rfl, fun v hv s => ?_,
    fun v s hlum hbayer _ _ hsize => ?_, fun _ => rfl⟩
  · exact exec_gen_invalid (s := s.setMsize v) (isValidN_refused v hv)
  · exact exec_dither_mismatch (s := s.setMsize v) hlum hbayer (.inr (.inr hsize))

/-- Settles O11: each command writes its dimension alone, and DITHER, INVERT and PACK each compare their grid's tag with
the dimensions they find. -/
theorem setrowsSetcolsWriteTheDimensions : Obligations.SetrowsSetcolsWriteTheDimensions := by
  refine ⟨fun v _ => ⟨encode_of_immediate (i := .setrows v) (by omega) rfl, rfl⟩,
    fun v _ => ⟨encode_of_immediate (i := .setcols v) (by omega) rfl, rfl⟩, fun r c s => ⟨?_, ?_, ?_⟩⟩
  · intro hlum hbayer htag
    exact exec_dither_mismatch (s := (s.setRows r).setCols c) hlum hbayer (or_assoc.1 (.inl htag))
  · exact exec_invert_mismatch (s := (s.setRows r).setCols c)
  · exact exec_pack_mismatch (s := (s.setRows r).setCols c)

/-- Settles O12: each command writes its register alone, and LUMA checks the channel count SETCH left. -/
theorem setchPixokWriteTheirRegister : Obligations.SetchPixokWriteTheirRegister :=
  ⟨fun v _ => ⟨encode_of_immediate (i := .setch v) (by omega) rfl, rfl⟩,
    fun v _ => ⟨encode_of_immediate (i := .pixok v) (by omega) rfl, rfl⟩,
    fun v s hch hpixok => exec_luma_mismatch (s := s.setCh v) hpixok (.inl hch)⟩

end Sys2Proof.Machine
end

section
/-! SUPPORT. Proofs on the Bayer Matrix Generator (41_bayer_generator.md, R63 to R69): what GEN does, the legal sizes,
the matrix by its quadrants and by the bits of a position, its bijection and corners, and the thresholds. -/

namespace Sys2Proof.Machine

/-! ### The command GEN -/

section
variable {s : State}

/-- GEN accepts a legal MSIZE and writes its matrix (R63). -/
theorem exec_gen_valid (h : isValidN s.msize.toNat = true) :
    exec .gen s = .next (s.putBayer s.msize (genGrid s.msize.toNat)) :=
  congrArg Host.Outcome.next (runStages_ok (genStage_ok.2 ⟨h, rfl⟩))

/-- An element of the matrix in BAYER reads back as the rank of its position: the rank fits its 12 bits (R20). -/
theorem bayerAt_putBayer_genGrid (size : Half) {n a b : Nat} (h : isValidN n = true) (ha : a < n) (hb : b < n) :
    ((s.putBayer size (genGrid n)).bayerAt a b).toNat = genRank n a b := by
  rw [genGrid, State.bayerAt_putBayer s ha hb, BitVec.toNat_ofNat]
  exact Nat.mod_eq_of_lt (genRank_lt_4096 h a b)

/-- Writing what BAYER holds already is a change of nothing. -/
theorem putBayer_self {size : Half} {ranks : Grid 12} (hvalid : s.bayer.valid = 1#1) (hsize : s.bayer.size = size)
    (hranks : s.bayer.ranks = ranks) : s.putBayer size ranks = s := by
  subst hsize hranks
  rw [State.putBayer, ← hvalid]

/-- A valid BAYER as R20 describes it has a legal size and holds the matrix of that size. -/
theorem bayerInv_of_valid (hinv : s.bayerInv) (hvalid : s.bayer.valid = 1#1) :
    isValidN s.bayer.size.toNat = true ∧ s.bayer.ranks = genGrid s.bayer.size.toNat := by
  rwa [State.bayerInv, if_pos hvalid] at hinv

end

/-- Settles O13: GEN's one stage on a legal and on an illegal MSIZE, and writing the same matrix once more. -/
theorem genBuildsTheMatrixOrFaults : Obligations.GenBuildsTheMatrixOrFaults := by
  refine ⟨rfl, fun s h => ⟨exec_gen_valid h, fun t ht a ha b hb => ?_⟩, fun _ => exec_gen_invalid,
    fun s hinv hvalid hsize => ?_⟩
  · obtain rfl := Host.Outcome.next.inj ((exec_gen_valid h).symm.trans ht)
    exact bayerAt_putBayer_genGrid s.msize h ha hb
  · obtain ⟨hlegal, hranks⟩ := bayerInv_of_valid hinv hvalid
    rw [hsize] at hlegal hranks
    rw [exec_gen_valid hlegal, putBayer_self hvalid hsize hranks]

/-! ### The legal sizes -/

/-- The legal sizes are the powers of two from 2 to 64 (R64). -/
theorem isValidN_iff (n : Nat) : isValidN n = true ↔ (∃ k, n = 2 ^ k) ∧ 2 ≤ n ∧ n ≤ 64 := by
  constructor
  · intro h
    obtain ⟨k, hk, rfl, -⟩ := isValidN_level h
    exact ⟨⟨k + 1, rfl⟩, Nat.pow_le_pow_right (i := 1) two_pos (by omega),
      Nat.pow_le_pow_right (j := 6) two_pos (by omega)⟩
  · rintro ⟨⟨k, rfl⟩, hlow, hhigh⟩
    have hk : k ≤ 6 := (Nat.pow_le_pow_iff_right (by omega : 1 < 2)).1 hhigh
    obtain _ | k := k
    · omega
    · exact isValidN_pow (by omega)

/-- Settles O14: the two descriptions of the legal sizes, and GEN's refusal of a size beyond the largest. -/
theorem legalSizesArePowersOfTwoUpTo64 : Obligations.LegalSizesArePowersOfTwoUpTo64 := by
  refine ⟨isValidN_iff, by decide, fun s hs => exec_gen_invalid ?_⟩
  rw [← Bool.not_eq_true, isValidN_iff]
  rintro ⟨-, -, hle⟩
  omega

/-! ### The matrix by its quadrants -/

/-- At a power of two `genRank` is the recursion at its level, whether or not the size is a legal one. -/
theorem genRank_two_pow (k a b : Nat) : genRank (2 ^ (k + 1)) a b = bayerRank k a b := by
  rw [genRank, Nat.log2_two_pow, Nat.add_sub_cancel]

/-- The four quadrants of a legal matrix of size 4 or more (R65). -/
theorem genRank_quadrants {n a b : Nat} (h : isValidN n = true) (hn : 4 ≤ n) (ha : a < n / 2) (hb : b < n / 2) :
    genRank n a b = 4 * genRank (n / 2) a b ∧
      genRank n a (b + n / 2) = 4 * genRank (n / 2) a b + 2 ∧
      genRank n (a + n / 2) b = 4 * genRank (n / 2) a b + 3 ∧
      genRank n (a + n / 2) (b + n / 2) = 4 * genRank (n / 2) a b + 1 := by
  obtain ⟨_ | k, -, rfl, -⟩ := isValidN_level h
  · omega
  · have hhalf : 2 ^ (k + 1 + 1) / 2 = 2 ^ (k + 1) := by rw [Nat.pow_succ, Nat.mul_div_cancel _ (by omega)]
    rw [hhalf] at ha hb ⊢
    simp only [genRank_two_pow]
    exact ⟨bayerRank_topLeft ha hb, bayerRank_topRight ha, bayerRank_bottomLeft hb, bayerRank_bottomRight⟩

/-- Settles O15: the base matrix by evaluation, and the four quadrants. -/
theorem matrixRecursionByQuadrants : Obligations.MatrixRecursionByQuadrants :=
  ⟨by decide, fun _ h hn _ ha _ hb => genRank_quadrants h hn ha hb⟩

/-! ### The matrix by the bits of a position -/

/-- The base-4 digit that bit `k` of the row `a` and of the column `b` contribute to a rank (R66). -/
def rankDigit (a b k : Nat) : Nat := 2 * (a.testBit k ^^ b.testBit k).toNat + (a.testBit k).toNat

/-- The remainder at a level is the remainder at the level below and one bit more. -/
theorem mod_two_pow_succ (x k : Nat) : x % 2 ^ (k + 1) = x % 2 ^ k + 2 ^ k * (x.testBit k).toNat := by
  rw [Nat.mod_pow_succ, Nat.toNat_testBit]

/-- Equal remainders at a level and an equal next bit are equal remainders at the level above. -/
theorem mod_two_pow_succ_congr {x y k : Nat} (hmod : x % 2 ^ k = y % 2 ^ k) (hbit : x.testBit k = y.testBit k) :
    x % 2 ^ (k + 1) = y % 2 ^ (k + 1) := by
  rw [mod_two_pow_succ, mod_two_pow_succ, hmod, hbit]

theorem rankDigit_lt (a b k : Nat) : rankDigit a b k < 4 := by
  unfold rankDigit
  cases a.testBit k <;> cases b.testBit k <;> decide

/-- A digit tells the two bits it was made from. -/
theorem rankDigit_inj {a b a' b' k : Nat} (h : rankDigit a b k = rankDigit a' b' k) :
    a.testBit k = a'.testBit k ∧ b.testBit k = b'.testBit k := by
  unfold rankDigit at h
  generalize a.testBit k = p, b.testBit k = q, a'.testBit k = p', b'.testBit k = q' at h ⊢
  revert p q p' q'
  decide

/-- The base matrix at the lowest bit of a position is the digit of that bit. -/
theorem bayerRank_zero_mod (a b : Nat) : bayerRank 0 (a % 2 ^ 1) (b % 2 ^ 1) = rankDigit a b 0 := by
  rw [mod_two_pow_succ, mod_two_pow_succ, rankDigit, Nat.pow_zero, Nat.mod_one, Nat.mod_one]
  cases a.testBit 0 <;> cases b.testBit 0 <;> rfl

/-- The highest bit of a position chooses the quadrant, so its digit is what the recursion adds to the four copies (R65,
R66). -/
theorem bayerRank_succ_mod (k a b : Nat) :
    bayerRank (k + 1) (a % 2 ^ (k + 2)) (b % 2 ^ (k + 2)) =
      4 * bayerRank k (a % 2 ^ (k + 1)) (b % 2 ^ (k + 1)) + rankDigit a b (k + 1) := by
  have ha : a % 2 ^ (k + 1) < 2 ^ (k + 1) := Nat.mod_lt _ (Nat.two_pow_pos _)
  have hb : b % 2 ^ (k + 1) < 2 ^ (k + 1) := Nat.mod_lt _ (Nat.two_pow_pos _)
  rw [mod_two_pow_succ a (k + 1), mod_two_pow_succ b (k + 1), rankDigit]
  cases a.testBit (k + 1) <;> cases b.testBit (k + 1) <;>
    simp only [Bool.toNat_true, Bool.toNat_false, Nat.mul_one, Nat.mul_zero, Nat.add_zero]
  · exact bayerRank_topLeft ha hb
  · exact bayerRank_topRight ha
  · exact bayerRank_bottomLeft hb
  · exact bayerRank_bottomRight

/-- The closed form by level: the digits of a position, the lowest bit's digit the most significant (R66). -/
theorem bayerRank_mod_eq_sum (k a b : Nat) :
    bayerRank k (a % 2 ^ (k + 1)) (b % 2 ^ (k + 1)) =
      ((List.range (k + 1)).map fun j => rankDigit a b j * 4 ^ (k - j)).sum := by
  induction k with
  | zero => simpa using bayerRank_zero_mod a b
  | succ k ih =>
    have hshift : ∀ j ∈ List.range (k + 1),
        rankDigit a b j * 4 ^ (k + 1 - j) = 4 * (rankDigit a b j * 4 ^ (k - j)) := by
      intro j hj
      rw [Nat.succ_sub (Nat.lt_succ_iff.1 (List.mem_range.1 hj)), Nat.pow_succ]
      ring
    rw [bayerRank_succ_mod, ih, List.range_succ (n := k + 1), List.map_append, List.sum_append,
      List.map_congr_left hshift, List.sum_map_mul_left]
    simp

/-- Settles O16: inside the matrix a position is its own remainder at the matrix's level. -/
theorem matrixClosedForm : Obligations.MatrixClosedForm := by
  intro n h a ha b hb
  obtain ⟨k, -, rfl, hlog, hrank⟩ := isValidN_level h
  have hsum := bayerRank_mod_eq_sum k a b
  rw [Nat.mod_eq_of_lt ha, Nat.mod_eq_of_lt hb] at hsum
  rw [hrank, hlog, hsum]
  rfl

/-! ### Bijection and corners -/

/-- Positions of one rank agree in the bits of the level: digit by digit, the last one by the remainder modulo 4. -/
theorem bayerRank_mod_inj {k a b a' b' : Nat}
    (h : bayerRank k (a % 2 ^ (k + 1)) (b % 2 ^ (k + 1)) = bayerRank k (a' % 2 ^ (k + 1)) (b' % 2 ^ (k + 1))) :
    a % 2 ^ (k + 1) = a' % 2 ^ (k + 1) ∧ b % 2 ^ (k + 1) = b' % 2 ^ (k + 1) := by
  induction k with
  | zero =>
    rw [bayerRank_zero_mod, bayerRank_zero_mod] at h
    obtain ⟨ha, hb⟩ := rankDigit_inj h
    exact ⟨mod_two_pow_succ_congr (by simp [Nat.mod_one]) ha, mod_two_pow_succ_congr (by simp [Nat.mod_one]) hb⟩
  | succ k ih =>
    rw [bayerRank_succ_mod, bayerRank_succ_mod] at h
    have hd := rankDigit_lt a b (k + 1)
    have hd' := rankDigit_lt a' b' (k + 1)
    obtain ⟨ha, hb⟩ := ih (by omega)
    obtain ⟨hta, htb⟩ := rankDigit_inj (a := a) (b := b) (a' := a') (b' := b') (k := k + 1) (by omega)
    exact ⟨mod_two_pow_succ_congr ha hta, mod_two_pow_succ_congr hb htb⟩

/-- No two positions of a legal matrix hold one rank (R67). -/
theorem genRank_injOn {n : Nat} (h : isValidN n = true) :
    Set.InjOn (fun p : Nat × Nat => genRank n p.1 p.2) (Finset.range n ×ˢ Finset.range n : Finset (Nat × Nat)) := by
  obtain ⟨k, -, rfl, -⟩ := isValidN_level h
  rintro ⟨a, b⟩ hp ⟨a', b'⟩ hp' heq
  simp only [Finset.coe_product, Finset.coe_range, Set.mem_prod, Set.mem_Iio] at hp hp'
  obtain ⟨ha, hb⟩ := hp
  obtain ⟨ha', hb'⟩ := hp'
  have hmod := bayerRank_mod_inj (k := k) (a := a) (b := b) (a' := a') (b' := b')
  rw [Nat.mod_eq_of_lt ha, Nat.mod_eq_of_lt hb, Nat.mod_eq_of_lt ha', Nat.mod_eq_of_lt hb'] at hmod
  simp only [genRank_two_pow] at heq
  obtain ⟨rfl, rfl⟩ := hmod heq
  rfl

/-- Every rank below n² stands somewhere: there are as many positions as ranks, and no rank stands twice (R67). -/
theorem exists_genRank_eq {n g : Nat} (h : isValidN n = true) (hg : g < n ^ 2) :
    ∃ a < n, ∃ b < n, genRank n a b = g := by
  have hsurj := Finset.surjOn_of_injOn_of_card_le (t := Finset.range (n ^ 2)) (fun p : Nat × Nat => genRank n p.1 p.2)
    (fun p _ => by simpa using genRank_lt h p.1 p.2) (genRank_injOn h) (by simp [sq])
  obtain ⟨⟨a, b⟩, hp, hrank⟩ := hsurj (Finset.mem_coe.2 (Finset.mem_range.2 hg))
  simp only [Finset.coe_product, Finset.coe_range, Set.mem_prod, Set.mem_Iio] at hp
  obtain ⟨ha, hb⟩ := hp
  exact ⟨a, ha, b, hb, hrank⟩

/-- Every rank below n² stands at exactly one position (R67). -/
theorem existsUnique_genRank_eq {n g : Nat} (h : isValidN n = true) (hg : g < n ^ 2) :
    ∃! p : Nat × Nat, p.1 < n ∧ p.2 < n ∧ genRank n p.1 p.2 = g := by
  obtain ⟨a, ha, b, hb, hrank⟩ := exists_genRank_eq h hg
  refine ⟨(a, b), ⟨ha, hb, hrank⟩, ?_⟩
  rintro p ⟨ha', hb', hrank'⟩
  exact genRank_injOn h (by simp [ha', hb']) (by simp [ha, hb]) (hrank'.trans hrank.symm)

/-- The top-left corner, all of whose digits are 0 (R67). -/
theorem bayerRank_topLeftCorner (k : Nat) : bayerRank k 0 0 = 0 := by
  induction k with
  | zero => rfl
  | succ k ih => rw [bayerRank_topLeft (Nat.two_pow_pos _) (Nat.two_pow_pos _), ih]

/-- The bottom-left corner, all of whose digits are 3 (R67). -/
theorem bayerRank_bottomLeftCorner (k : Nat) : bayerRank k (2 ^ (k + 1) - 1) 0 = 4 ^ (k + 1) - 1 := by
  induction k with
  | zero => rfl
  | succ k ih =>
    have hpos : 0 < 2 ^ (k + 1) := Nat.two_pow_pos _
    have hpos4 : 0 < 4 ^ (k + 1) := Nat.pow_pos (by omega)
    have hrow : 2 ^ (k + 1 + 1) - 1 = 2 ^ (k + 1) - 1 + 2 ^ (k + 1) := by rw [Nat.pow_succ]; omega
    rw [hrow, bayerRank_bottomLeft hpos, ih, Nat.pow_succ 4 (k + 1)]
    omega

/-- The corners of a legal matrix hold its smallest and its largest rank (R67). -/
theorem genRank_corners {n : Nat} (h : isValidN n = true) : genRank n 0 0 = 0 ∧ genRank n (n - 1) 0 = n ^ 2 - 1 := by
  obtain ⟨k, -, rfl, -, hrank⟩ := isValidN_level h
  rw [hrank, hrank, bayerRank_bottomLeftCorner, ← Nat.pow_mul, Nat.mul_comm, Nat.pow_mul]
  exact ⟨bayerRank_topLeftCorner k, rfl⟩

/-- Settles O17: range, bijection by counting, the quadrants of R65, and the two corners. -/
theorem matrixIsAPermutationWithItsCorners : Obligations.MatrixIsAPermutationWithItsCorners := by
  refine fun n h => ⟨fun a _ b _ => genRank_lt h a b, fun g => existsUnique_genRank_eq h,
    fun hn a ha b hb => ?_, genRank_corners h⟩
  obtain ⟨htl, htr, hbl, hbr⟩ := genRank_quadrants h hn ha hb
  exact ⟨hbr, htr, hbl, htl⟩

/-! ### The thresholds -/

section
variable {g n : Nat}

theorem thr_eq (g n : Nat) : thr g n = 255 * (1 + (g : ℚ)) / (1 + (n : ℚ) ^ 2) := by
  norm_num [thr, lumMax]

theorem thr_pos (g n : Nat) : 0 < thr g n := by
  rw [thr_eq]
  positivity

/-- Thresholds rise with the rank (R69). -/
theorem thr_le_thr {g' : Nat} (h : g ≤ g') : thr g n ≤ thr g' n := by
  rw [thr_eq, thr_eq]
  gcongr

/-- A rank and its mirror have thresholds that add up to white (R69). -/
theorem thr_add_thr_mirror (hg : g < n ^ 2) : thr g n + thr (n ^ 2 - 1 - g) n = 255 := by
  have hmirror : ((n ^ 2 - 1 - g : Nat) : ℚ) = (n : ℚ) ^ 2 - 1 - g := by
    rw [Nat.cast_sub (by omega), Nat.cast_sub (by omega)]
    push_cast
    rfl
  rw [thr_eq, thr_eq, hmirror]
  field_simp
  ring

/-- No threshold reaches white, since its mirror's is positive (R69). -/
theorem thr_lt_255 (hg : g < n ^ 2) : thr g n < 255 := by
  have hmirror := thr_add_thr_mirror hg
  have hpos := thr_pos (n ^ 2 - 1 - g) n
  linarith

/-- The smallest threshold (R69). -/
theorem thr_zero (n : Nat) : thr 0 n = 255 / (1 + (n : ℚ) ^ 2) := by
  rw [thr_eq, Nat.cast_zero, add_zero, mul_one]

/-- The largest threshold (R69). -/
theorem thr_last (hn : 0 < n) : thr (n ^ 2 - 1) n = 255 * (n : ℚ) ^ 2 / (1 + (n : ℚ) ^ 2) := by
  have hone : 1 ≤ n ^ 2 := Nat.pow_pos hn
  rw [thr_eq, Nat.cast_sub hone, Nat.cast_pow, Nat.cast_one, add_sub_cancel]

end

/-- Settles O18: thresholds are positive, rise with the rank, and mirror about half of white. -/
theorem thresholdsLieStrictlyInside : Obligations.ThresholdsLieStrictlyInside := by
  intro n h
  have hn : 0 < n := by
    obtain ⟨-, hlow, -⟩ := (isValidN_iff n).1 h
    omega
  exact ⟨fun g hg => ⟨thr_pos g n, thr_lt_255 hg, thr_le_thr (Nat.zero_le g), thr_le_thr (by omega),
    thr_add_thr_mirror hg⟩, thr_zero n, thr_last hn⟩

end Sys2Proof.Machine
end

section
/-! SUPPORT. Proofs on the Grayscale Reducer (42_grayscale_reducer.md, R71 to R74): the luminance numerator as a linear
form, what LUMA answers, and the element it stores for each pixel. -/

namespace Sys2Proof.Machine

/-! ### The luminance numerator -/

/-- The weights of LumNum as numbers (R72). -/
theorem lumNum_eq (r g b : Nat) : lumNum r g b = 2989 * r + 5870 * g + 1140 * b := rfl

/-- Over the common denominator, LumNum is the document's luminance with its decimal weights (R72, R73). -/
theorem lumNum_div_weightDen (r g b : Nat) :
    (lumNum r g b : ℚ) / 10000 = 2989 / 10000 * r + 5870 / 10000 * g + 1140 / 10000 * b := by
  rw [lumNum_eq]
  push_cast
  ring

/-- Settles O20: the formula is the definition, and it is largest where every sample is. -/
theorem lumNumFormulaAndRange : Obligations.LumNumFormulaAndRange :=
  ⟨fun r g b => ⟨lumNum_eq r g b, lumNum_div_weightDen r g b⟩,
    fun _ hr _ hg _ hb => lumNum_le hr hg hb, rfl, rfl⟩

theorem lumNum_mul (k r g b : Nat) : lumNum (k * r) (k * g) (k * b) = k * lumNum r g b := by
  simp only [lumNum_eq]
  ring

/-- No weight is 0, so LumNum rises with each sample (R74). -/
theorem lumNum_lt_add {d : Nat} (r g b : Nat) (hd : 0 < d) :
    lumNum r g b < lumNum (r + d) g b ∧ lumNum r g b < lumNum r (g + d) b ∧ lumNum r g b < lumNum r g (b + d) := by
  simp only [lumNum_eq]
  omega

/-- The three weights add up to 9999 (R74). -/
theorem lumNum_gray (v : Nat) : lumNum v v v = 9999 * v := by
  rw [lumNum_eq]
  omega

/-! ### LUMA -/

/-- Dimensions are illegal when one is 0 or above its maximum (R71). -/
theorem dimensionsLegal_false_iff (s : State) : s.dimensionsLegal = false ↔
    s.rows = 0#16 ∨ s.build.maxRows < s.rows.toNat ∨ s.cols = 0#16 ∨ s.build.maxCols < s.cols.toNat := by
  rw [← Bool.not_eq_true, dimensionsLegal_iff, ← BitVec.toNat_inj (x := s.rows), ← BitVec.toNat_inj (x := s.cols),
    BitVec.toNat_zero]
  omega

/-- A fault taken is recorded: no code is 0 (R102, R106). -/
theorem takeFault_err_ne_zero (s : State) (r : Raise) : (s.takeFault r).err ≠ 0#3 := by
  rw [State.takeFault_err]
  cases r.kind <;> decide

section
variable {s : State}

/-- LUMA refuses an input that is not declared available, whatever its format (R71). -/
theorem exec_luma_malformed (hpixok : s.pixok = 0#1) :
    exec .luma s = .next (s.takeFault ⟨.malformedInput, .luma⟩) :=
  congrArg Host.Outcome.next (runStages_error (lumaStage_error.2 (.inl ⟨hpixok, rfl⟩)))

/-- LUMA on an input of legal format stores the luminance grid under the configured dimensions (R71). -/
theorem exec_luma_ok (hpixok : s.pixok = 1#1) (hch : s.ch = 3#8) (hdim : s.dimensionsLegal = true) :
    exec .luma s = .next (s.putLum s.rows s.cols s.lumGrid) :=
  congrArg Host.Outcome.next (runStages_ok (lumaStage_ok.2 ⟨hpixok, hch, hdim, rfl⟩))

/-- LUM's 22 bits hold every numerator, so the element stored for a pixel is the numerator itself (R21, R71). -/
theorem toNat_lumAt_putLum_lumGrid {i j : Nat} (hi : i < s.rows.toNat) (hj : j < s.cols.toNat) :
    ((s.putLum s.rows s.cols s.lumGrid).lumAt i j).toNat =
      lumNum (s.sample i j 0) (s.sample i j 1) (s.sample i j 2) := by
  have hle := lumNum_le (sample_le s i j 0) (sample_le s i j 1) (sample_le s i j 2)
  rw [State.lumGrid, State.lumAt_putLum s hi hj, BitVec.toNat_ofNat, Nat.mod_eq_of_lt (by omega)]

/-- LUMA that leaves no fault recorded leaves the configured dimensions as LUM's tag (R74). -/
theorem lum_tag_of_exec_luma {t : State} (h : exec .luma s = .next t) (herr : t.err = 0#3) :
    t.lum.rows = s.rows ∧ t.lum.cols = s.cols := by
  rcases runStages_single (Host.Outcome.next.inj h) with hok | ⟨r, -, rfl⟩
  · obtain ⟨-, -, -, rfl⟩ := lumaStage_ok.1 hok
    exact ⟨rfl, rfl⟩
  · exact absurd herr (takeFault_err_ne_zero s r)

end

/-- Settles O19: LUMA raises by the first check that fails, and otherwise stores the luminance grid. -/
theorem lumaChecksThenReducesEveryPixel : Obligations.LumaChecksThenReducesEveryPixel := by
  refine ⟨rfl, fun s => ⟨exec_luma_malformed, fun hpixok hch => exec_luma_mismatch hpixok (.inl hch),
    fun hpixok _ hdim => exec_luma_mismatch hpixok (.inr ((dimensionsLegal_false_iff s).2 hdim)), ?_⟩⟩
  intro hpixok hch hrows hmaxRows hcols hmaxCols
  have hdim : s.dimensionsLegal = true := (dimensionsLegal_iff s).2 ⟨hrows, hmaxRows, hcols, hmaxCols⟩
  exact ⟨s.putLum s.rows s.cols s.lumGrid, exec_luma_ok hpixok hch hdim, rfl, Grid.hasShape_build _ _ _,
    fun i hi j hj => toNat_lumAt_putLum_lumGrid hi hj⟩

/-- Settles O21: without a fault LUMA stored the grid under the configured dimensions, and LumNum is a linear form with
positive weights that add up to 9999. -/
theorem lumaKeepsDimensionsIsLinearAndMonotone : Obligations.LumaKeepsDimensionsIsLinearAndMonotone :=
  ⟨fun _ _ h herr _ hzero => lum_tag_of_exec_luma h (herr.trans hzero), lumNum_mul,
    fun r g b _ hd => lumNum_lt_add r g b hd, lumNum_gray⟩

end Sys2Proof.Machine
end

section
/-! SUPPORT. Proofs on the Ordered Ditherer (43_ordered_ditherer.md, R76 to R81): the comparison as one of naturals and
as one of rationals, its ties, what DITHER and INVERT answer, and the two bits of a pixel. -/

namespace Sys2Proof.Machine

/-! ### The comparison -/

section
variable {S g n : Nat}

/-- `above` as the inequality of R77, its factor as one number. -/
theorem above_iff : above S g n = true ↔ S * (1 + n ^ 2) > 2550000 * (1 + g) := decide_eq_true_iff

/-- A luminance over the denominator it has in common with a threshold of size `n` (R77). -/
theorem lum_over_commonDen (S n : Nat) :
    (S : ℚ) / 10000 = (S * (1 + n ^ 2) : Nat) / (10000 * (1 + n ^ 2) : Nat) := by
  push_cast
  field_simp

/-- A threshold over the denominator it has in common with a luminance (R77). -/
theorem thr_over_commonDen (g n : Nat) :
    thr g n = (2550000 * (1 + g) : Nat) / (10000 * (1 + n ^ 2) : Nat) := by
  rw [thr_eq]
  push_cast
  field_simp
  ring

theorem commonDen_pos (n : Nat) : (0 : ℚ) < (10000 * (1 + n ^ 2) : Nat) := by positivity

/-- Over the common denominator the rational comparison is that of the numerators (R77). -/
theorem above_iff_gt_thr : above S g n = true ↔ (S : ℚ) / 10000 > thr g n := by
  rw [above_iff, lum_over_commonDen S n, thr_over_commonDen, gt_iff_lt, gt_iff_lt,
    div_lt_div_iff_of_pos_right (commonDen_pos n), Nat.cast_lt]

/-- A tie is an equality of the numerators over the common denominator (R79). -/
theorem lum_eq_thr_iff : (S : ℚ) / 10000 = thr g n ↔ S * (1 + n ^ 2) = 2550000 * (1 + g) := by
  rw [lum_over_commonDen S n, thr_over_commonDen, div_left_inj' (commonDen_pos n).ne', Nat.cast_inj]

/-- The comparison is strict, so a tie is not above (R79). -/
theorem above_of_tie (h : (S : ℚ) / 10000 = thr g n) : above S g n = false := by
  rw [← Bool.not_eq_true, above_iff_gt_thr, h]
  exact lt_irrefl _

/-- The comparison keeps its truth as the luminance grows (R81). -/
theorem above_mono {S' : Nat} (hS : S ≤ S') (h : above S g n = true) : above S' g n = true :=
  above_iff.2 ((above_iff.1 h).trans_le (Nat.mul_le_mul_right _ hS))

/-- White is above the largest threshold of a legal size, since n² is less than 9999 (R81). -/
theorem above_white (hn : isValidN n = true) (hg : g < n ^ 2) : above (lumNum 255 255 255) g n = true := by
  obtain ⟨-, -, hhigh⟩ := (isValidN_iff n).1 hn
  have hsq : n ^ 2 ≤ 64 ^ 2 := Nat.pow_le_pow_left hhigh 2
  rw [above_iff, lumNum_gray]
  omega

/-- Black has luminance 0, above no threshold (R81). -/
theorem above_black (g n : Nat) : above (lumNum 0 0 0) g n = false := by
  rw [← Bool.not_eq_true, above_iff, lumNum_gray]
  omega

/-- Size 16 has no tie: 257 is coprime to 2550000, and no 1 + g up to 256 is a multiple of it (R79). -/
theorem no_tie_16 (S : Nat) (hg : g < 256) : (S : ℚ) / 10000 ≠ thr g 16 := by
  rw [ne_eq, lum_eq_thr_iff]
  intro htie
  have hdvd : 257 ∣ 1 + g :=
    (by decide : Nat.Coprime 257 2550000).dvd_of_dvd_mul_left (htie ▸ Dvd.intro_left S rfl)
  have hle := Nat.le_of_dvd (by omega) hdvd
  omega

/-- The pixel (140, 2, 70) has luminance 51, a fifth of white: a threshold where 5 divides 1 + n². -/
theorem tie_at_51 (h : 1 + n ^ 2 = 5 * (1 + g)) : (lumNum 140 2 70 : ℚ) / 10000 = thr g n := by
  rw [lum_eq_thr_iff, h, lumNum_eq]
  ring

/-- The pixel (0, 24, 8) has luminance 15, a seventeenth of white: a threshold where 17 divides 1 + n². -/
theorem tie_at_15 (h : 1 + n ^ 2 = 17 * (1 + g)) : (lumNum 0 24 8 : ℚ) / 10000 = thr g n := by
  rw [lum_eq_thr_iff, h, lumNum_eq]
  ring

/-- At a legal size other than 16 the denominator 1 + n² has the factor 5 or 17, and so a tie (R79). -/
theorem exists_tie (hn : isValidN n = true) (h16 : n ≠ 16) :
    ∃ r ≤ 255, ∃ g ≤ 255, ∃ b ≤ 255, ∃ rank < n ^ 2, (lumNum r g b : ℚ) / 10000 = thr rank n := by
  obtain ⟨k, hk, rfl, -⟩ := isValidN_level hn
  interval_cases k
  · exact ⟨140, by omega, 2, by omega, 70, by omega, 0, by omega, tie_at_51 rfl⟩
  · exact ⟨0, by omega, 24, by omega, 8, by omega, 0, by omega, tie_at_15 rfl⟩
  · exact ⟨140, by omega, 2, by omega, 70, by omega, 12, by omega, tie_at_51 rfl⟩
  · exact absurd rfl h16
  · exact ⟨140, by omega, 2, by omega, 70, by omega, 204, by omega, tie_at_51 rfl⟩
  · exact ⟨0, by omega, 24, by omega, 8, by omega, 240, by omega, tie_at_15 rfl⟩

end

/-- Settles O25: the integer form is the definition, the rational one has a common denominator. -/
theorem aboveIsTheExactRationalComparison : Obligations.AboveIsTheExactRationalComparison :=
  fun _ _ _ => ⟨above_iff, above_iff_gt_thr⟩

/-- Settles O26: strictness, the prime 257, and one tie for each other size. -/
theorem tiesAreNotAboveAndSize16HasNone : Obligations.TiesAreNotAboveAndSize16HasNone :=
  ⟨fun _ _ _ => above_of_tie, fun S _ => no_tie_16 S, fun _ => exists_tie⟩

/-! ### The two bits of a pixel -/

/-- The rank in BAYER that pixel (i, j) is compared with (R78). -/
def State.tiledRank (s : State) (i j : Nat) : Nat :=
  (s.bayerAt (i % s.bayer.size.toNat) (j % s.bayer.size.toNat)).toNat

section
variable {s : State}

/-- The tiled ranks depend on BAYER alone. -/
theorem tiledRank_congr {s' : State} (h : s.bayer = s'.bayer) (i j : Nat) : s.tiledRank i j = s'.tiledRank i j := by
  simp only [State.tiledRank, State.bayerAt, h]

/-- The tiled ranks of a valid BAYER are ranks of its size: tiling stays inside the matrix (R20, R78). -/
theorem tiledRank_lt (hinv : s.bayerInv) (hvalid : s.bayer.valid = 1#1) (i j : Nat) :
    s.tiledRank i j < s.bayer.size.toNat ^ 2 := by
  obtain ⟨hlegal, hranks⟩ := bayerInv_of_valid hinv hvalid
  obtain ⟨-, hlow, -⟩ := (isValidN_iff _).1 hlegal
  have hrank := bayerAt_putBayer_genGrid (s := s) s.bayer.size hlegal (Nat.mod_lt i (by omega))
    (Nat.mod_lt j (by omega))
  rw [putBayer_self hvalid rfl hranks] at hrank
  rw [State.tiledRank, hrank]
  exact genRank_lt hlegal _ _

theorem ditherBit_eq_one_iff {i j : Nat} :
    s.ditherBit i j = 1#1 ↔ above (s.lumAt i j).toNat (s.tiledRank i j) s.bayer.size.toNat = true := by
  rw [State.ditherBit, State.tiledRank]
  split <;> simp [*]

theorem ditherBit_eq_zero_iff {i j : Nat} :
    s.ditherBit i j = 0#1 ↔ above (s.lumAt i j).toNat (s.tiledRank i j) s.bayer.size.toNat = false := by
  rw [← bit_ne_one, ne_eq, ditherBit_eq_one_iff, Bool.not_eq_true]

/-- Under one matrix a brighter pixel keeps the decision 1 (R81). -/
theorem ditherBit_mono {s' : State} {i j : Nat} (hbayer : s.bayer = s'.bayer)
    (hlum : (s.lumAt i j).toNat ≤ (s'.lumAt i j).toNat) (h : s.ditherBit i j = 1#1) : s'.ditherBit i j = 1#1 := by
  rw [ditherBit_eq_one_iff] at h ⊢
  rw [← tiledRank_congr hbayer, ← hbayer]
  exact above_mono hlum h

/-- A white pixel is decided 1 under every legal matrix (R81). -/
theorem ditherBit_white {i j : Nat} (hinv : s.bayerInv) (hvalid : s.bayer.valid = 1#1)
    (h : (s.lumAt i j).toNat = lumNum 255 255 255) : s.ditherBit i j = 1#1 := by
  obtain ⟨hlegal, -⟩ := bayerInv_of_valid hinv hvalid
  rw [ditherBit_eq_one_iff, h]
  exact above_white hlegal (tiledRank_lt hinv hvalid i j)

/-- A black pixel is decided 0 (R81). -/
theorem ditherBit_black {i j : Nat} (h : (s.lumAt i j).toNat = lumNum 0 0 0) : s.ditherBit i j = 0#1 := by
  rw [ditherBit_eq_zero_iff, h]
  exact above_black _ _

/-- The complement of a bit, as a number (R80). -/
theorem toNat_one_sub_bit (b : Bit) : (1#1 - b).toNat = 1 - b.toNat := by
  revert b
  decide

theorem one_sub_bit_eq_zero_iff {b : Bit} : 1#1 - b = 0#1 ↔ b = 1#1 := by
  revert b
  decide

/-! ### DITHER and INVERT -/

/-- DITHER refuses to run before LUMA and GEN have (R76). -/
theorem exec_dither_notReady (h : s.lum.valid = 0#1 ∨ s.bayer.valid = 0#1) :
    exec .dither s = .next (s.takeFault ⟨.notReady, .dither⟩) :=
  congrArg Host.Outcome.next (runStages_error (ditherStage_error.2 (.inl ⟨h, rfl⟩)))

/-- DITHER on grids of the configured sizes stores every decision under LUM's tag (R76). -/
theorem exec_dither_ok (hlum : s.lum.valid = 1#1) (hbayer : s.bayer.valid = 1#1) (hrows : s.lum.rows = s.rows)
    (hcols : s.lum.cols = s.cols) (hsize : s.bayer.size = s.msize) :
    exec .dither s =
      .next (s.putDbit s.lum.rows s.lum.cols (Grid.build s.lum.rows.toNat s.lum.cols.toNat s.ditherBit)) :=
  congrArg Host.Outcome.next (runStages_ok (ditherStage_ok.2 ⟨hlum, hbayer, hrows, hcols, hsize, rfl⟩))

/-- INVERT refuses to run before DITHER has (R80). -/
theorem exec_invert_notReady (h : s.dbit.valid = 0#1) :
    exec .invert s = .next (s.takeFault ⟨.notReady, .invert⟩) :=
  congrArg Host.Outcome.next (runStages_error (invertStage_error.2 (.inl ⟨h, rfl⟩)))

/-- INVERT on decisions of the configured dimensions stores every complement under DBIT's tag (R80). -/
theorem exec_invert_ok (hdbit : s.dbit.valid = 1#1) (hrows : s.dbit.rows = s.rows) (hcols : s.dbit.cols = s.cols) :
    exec .invert s =
      .next (s.putSbit s.dbit.rows s.dbit.cols (Grid.build s.dbit.rows.toNat s.dbit.cols.toNat s.storedBit)) :=
  congrArg Host.Outcome.next (runStages_ok (invertStage_ok.2 ⟨hdbit, hrows, hcols, rfl⟩))

/-- DITHER that leaves no fault recorded had a valid matrix and stored every decision (R76). -/
theorem eq_putDbit_of_exec_dither {t : State} (h : exec .dither s = .next t) (herr : t.err = 0#3) :
    s.bayer.valid = 1#1 ∧
      t = s.putDbit s.lum.rows s.lum.cols (Grid.build s.lum.rows.toNat s.lum.cols.toNat s.ditherBit) := by
  rcases runStages_single (Host.Outcome.next.inj h) with hok | ⟨r, -, rfl⟩
  · obtain ⟨-, hbayer, -, -, -, ht⟩ := ditherStage_ok.1 hok
    exact ⟨hbayer, ht⟩
  · exact absurd herr (takeFault_err_ne_zero s r)

/-- INVERT that leaves no fault recorded stored every complement (R80). -/
theorem eq_putSbit_of_exec_invert {t : State} (h : exec .invert s = .next t) (herr : t.err = 0#3) :
    t = s.putSbit s.dbit.rows s.dbit.cols (Grid.build s.dbit.rows.toNat s.dbit.cols.toNat s.storedBit) := by
  rcases runStages_single (Host.Outcome.next.inj h) with hok | ⟨r, -, rfl⟩
  · obtain ⟨-, -, -, ht⟩ := invertStage_ok.1 hok
    exact ht
  · exact absurd herr (takeFault_err_ne_zero s r)

/-- DITHER and INVERT without a fault leave, inside LUM's tag, each pixel's decision and its complement (R76, R80). -/
theorem bits_of_dither_invert {t u : State} (ht : exec .dither s = .next t) (hterr : t.err = 0#3)
    (hu : exec .invert t = .next u) (huerr : u.err = 0#3) {i j : Nat} (hi : i < s.lum.rows.toNat)
    (hj : j < s.lum.cols.toNat) : t.dbitAt i j = s.ditherBit i j ∧ u.sbitAt i j = 1#1 - s.ditherBit i j := by
  obtain ⟨-, rfl⟩ := eq_putDbit_of_exec_dither ht hterr
  obtain rfl := eq_putSbit_of_exec_invert hu huerr
  have hdbit := State.dbitAt_putDbit s (r := s.lum.rows) (c := s.lum.cols) (f := s.ditherBit) hi hj
  exact ⟨hdbit, (State.sbitAt_putSbit _ hi hj).trans (congrArg (1#1 - ·) hdbit)⟩

end

/-- Settles O24: DITHER raises by the first check that fails, and otherwise stores every decision. -/
theorem ditherChecksThenDecidesEveryPixel : Obligations.DitherChecksThenDecidesEveryPixel := by
  refine ⟨rfl, fun s => ⟨exec_dither_notReady,
    fun hlum hbayer htag => exec_dither_mismatch hlum hbayer (or_assoc.1 (.inl htag)),
    fun hlum hbayer _ _ hsize => exec_dither_mismatch hlum hbayer (.inr (.inr hsize)), ?_⟩⟩
  intro hlum hbayer hrows hcols hsize
  refine ⟨_, exec_dither_ok hlum hbayer hrows hcols hsize, rfl, Grid.hasShape_build _ _ _, fun i hi j hj => ?_⟩
  rw [State.dbitAt_putDbit s hi hj, ditherBit_eq_one_iff, above_iff, State.tiledRank]

/-- Settles O27: INVERT raises by the first check that fails, and otherwise stores every complement; DBIT, all that it
reads, it does not write, so once more it does the same. -/
theorem invertStoresTheComplementOfEachDecision : Obligations.InvertStoresTheComplementOfEachDecision := by
  refine ⟨rfl, fun s => ⟨exec_invert_notReady, exec_invert_mismatch, fun hdbit hrows hcols => ?_⟩⟩
  refine ⟨_, exec_invert_ok hdbit hrows hcols, rfl, Grid.hasShape_build _ _ _, fun i hi j hj => ?_,
    exec_invert_ok (s := s.putSbit _ _ _) hdbit hrows hcols⟩
  rw [State.sbitAt_putSbit s hi hj, State.storedBit, toNat_one_sub_bit]

/-- Settles O28: without a fault both commands copy the tag they find, and a pixel's two bits are its decision and the
complement. -/
theorem ditherIsMonotoneWhiteAndBlackAreFixed : Obligations.DitherIsMonotoneWhiteAndBlackAreFixed := by
  refine ⟨fun s t _ hterr => ⟨fun h => ?_, fun h => ?_⟩, fun _ _ _ _ => above_mono,
    fun n hn g hg => ⟨above_white hn hg, above_black g n⟩, ?_, ?_⟩
  · obtain ⟨-, rfl⟩ := eq_putDbit_of_exec_dither h hterr
    exact ⟨rfl, rfl⟩
  · obtain rfl := eq_putSbit_of_exec_invert h hterr
    exact ⟨rfl, rfl⟩
  · intro s s' t t' u u' _ _ huerr huerr' hbayer ht hu ht' hu' hterr hterr' i j hi hj hi' hj' hlum
    obtain ⟨hd, hs⟩ := bits_of_dither_invert ht hterr hu huerr hi hj
    obtain ⟨hd', hs'⟩ := bits_of_dither_invert ht' hterr' hu' huerr' hi' hj'
    rw [hd, hd', hs, hs', one_sub_bit_eq_zero_iff, one_sub_bit_eq_zero_iff]
    exact ⟨ditherBit_mono hbayer hlum, ditherBit_mono hbayer hlum⟩
  · intro s t u hinv _ hterr huerr ht hu i hi j hj
    obtain ⟨hvalid, -⟩ := eq_putDbit_of_exec_dither ht hterr
    obtain ⟨hd, hs⟩ := bits_of_dither_invert ht hterr hu huerr hi hj
    rw [hd, hs]
    refine ⟨fun hwhite => ?_, fun hblack => ?_⟩
    · rw [ditherBit_white hinv hvalid hwhite]
      decide
    · rw [ditherBit_black hblack]
      decide

end Sys2Proof.Machine
end

section
/-! SUPPORT. Proofs on the Bit Packer (44_bit_packer.md, R83 to R95): the column order, the groups and their values by
bits, the literals and the counts of the text, what PACK answers, and the white image through CONVERT. -/

namespace Sys2Proof.Machine

/-! ### The column order -/

theorem src_zero (cols : Nat) : src 0 cols = 0 := Nat.mod_self cols

/-- Past position 0 the remainder takes nothing off (R84). -/
theorem src_succ {c cols : Nat} (h : c + 1 < cols) : src (c + 1) cols = cols - 1 - c := by
  rw [src, Nat.mod_eq_of_lt (by omega)]
  omega

theorem src_lt {cols : Nat} (hcols : 1 ≤ cols) (c : Nat) : src c cols < cols := Nat.mod_lt _ hcols

/-- The column order is its own inverse (R84). -/
theorem src_src {c cols : Nat} (hc : c < cols) : src (src c cols) cols = c := by
  cases c with
  | zero => rw [src_zero, src_zero]
  | succ c =>
    have hpos : cols - 1 - c = (cols - 2 - c) + 1 := by omega
    rw [src_succ hc, hpos, src_succ (by omega)]
    omega

theorem map_src_range {cols : Nat} (hcols : 1 ≤ cols) : (List.range cols).map (fun c => src c cols) =
    0 :: (List.range (cols - 1)).map fun k => cols - 1 - k := by
  obtain ⟨m, rfl⟩ := Nat.exists_eq_add_of_le' hcols
  rw [List.range_succ_eq_map, List.map_cons, List.map_map, src_zero]
  congr 1
  exact List.map_congr_left fun k hk => src_succ (Nat.succ_lt_succ (List.mem_range.1 hk))

/-- Settles O30: the order by its first position and the others, and the bijection from the order being its own
inverse. -/
theorem columnOrderIsZeroThenDescending : Obligations.ColumnOrderIsZeroThenDescending := by
  refine fun cols hcols => ⟨map_src_range hcols, fun c hc => ⟨src_lt hcols c, src_src hc, rfl⟩, fun s hs => ?_⟩
  refine ⟨src s cols, ⟨src_lt hcols s, src_src hs⟩, ?_⟩
  rintro c ⟨hc, rfl⟩
  exact (src_src hc).symm

/-! ### The groups -/

/-- The number of groups is the ceiling of an eighth of the rows (R86). -/
theorem nGroups_ceil (rows : Nat) : nGroups rows * 8 < rows + 8 ∧ rows ≤ nGroups rows * 8 := by
  unfold nGroups groupRows
  omega

/-- A group lies inside the rows (R86). -/
theorem groupBits_inside {rows k : Nat} (h : k < nGroups rows) : 8 * k + groupBits rows k ≤ rows := by
  have hstart := nGroups_bounds h
  unfold groupBits groupRows
  omega

theorem groupBits_of_not_last {rows k : Nat} (h : k + 1 < nGroups rows) : groupBits rows k = 8 := by
  have hnext := nGroups_bounds h
  unfold groupBits groupRows
  omega

/-- The last group ends at the last row; short of 8 rows it has what is left of them (R87). -/
theorem groupBits_of_last {rows k : Nat} (h : k + 1 = nGroups rows) :
    rows = 8 * k + groupBits rows k ∧ (rows % 8 ≠ 0 → groupBits rows k = rows % 8) := by
  have hceil := nGroups_ceil rows
  rw [← h] at hceil
  unfold groupBits groupRows
  omega

/-- The sum of weighted bits, most significant first, as Horner's rule takes in its last bit. -/
theorem sum_bits_succ (n : Nat) (b : Nat → Bit) :
    ((List.range (n + 1)).map fun t => (b t).toNat * 2 ^ (n - t)).sum =
      2 * ((List.range n).map fun t => (b t).toNat * 2 ^ (n - 1 - t)).sum + (b n).toNat := by
  have hterm : ∀ t ∈ List.range n, (b t).toNat * 2 ^ (n - t) = 2 * ((b t).toNat * 2 ^ (n - 1 - t)) := by
    intro t ht
    have hexp : n - t = n - 1 - t + 1 := by
      have := List.mem_range.1 ht
      omega
    rw [hexp, pow_succ]
    ring
  rw [List.range_succ, List.map_append, List.sum_append, List.map_congr_left hterm, List.sum_map_mul_left]
  simp

theorem two_mul_add_bit_div_two (x : Nat) (b : Bit) : (2 * x + b.toNat) / 2 = x := by
  have := bit_toNat_le b
  omega

theorem testBit_zero_two_mul_add_bit (x : Nat) (b : Bit) : (2 * x + b.toNat).testBit 0 = (b == 1#1) := by
  rw [Nat.testBit_zero, Nat.mul_add_mod]
  revert b
  decide

/-- Each bit of the sum stands at the place of its weight (R86). -/
theorem testBit_sum_bits {n t : Nat} (b : Nat → Bit) (ht : t < n) :
    ((List.range n).map fun t => (b t).toNat * 2 ^ (n - 1 - t)).sum.testBit (n - 1 - t) = (b t == 1#1) := by
  induction n with
  | zero => exact absurd ht (Nat.not_lt_zero t)
  | succ n ih =>
    rw [Nat.add_sub_cancel, sum_bits_succ]
    rcases Nat.lt_succ_iff_lt_or_eq.1 ht with hlt | rfl
    · have hplace : n - t = n - 1 - t + 1 := by omega
      rw [hplace, Nat.testBit_succ, two_mul_add_bit_div_two, ih hlt]
    · rw [Nat.sub_self, testBit_zero_two_mul_add_bit]

theorem testBit_groupVal {s : State} {col k t : Nat} (ht : t < groupBits s.sbit.rows.toNat k) :
    (s.groupVal col k).testBit (groupBits s.sbit.rows.toNat k - 1 - t) = (s.sbitAt (8 * k + t) col == 1#1) :=
  testBit_sum_bits (fun t => s.sbitAt (groupRows * k + t) col) ht

/-- Settles O31: the counts by arithmetic, the value by Horner's rule. -/
theorem groupValueHoldsTheRowsTopFirst : Obligations.GroupValueHoldsTheRowsTopFirst := by
  refine ⟨nGroups_ceil, fun rows k hk => ?_, fun s col k _ => ⟨groupVal_lt s col k, fun t => testBit_groupVal⟩⟩
  obtain ⟨hlow, hhigh⟩ := groupBits_bounds hk
  exact ⟨hlow, hhigh, groupBits_inside hk, groupBits_of_not_last, groupBits_of_last⟩

/-! ### The literals -/

theorem hexLit_of_lt {v : Nat} (h : v < 16) : hexLit v = [0x30#8, 0x78#8] ++ [hexDigit v] := by
  simp [hexLit, h]

theorem hexLit_of_ge {v : Nat} (h : 16 ≤ v) :
    hexLit v = [0x30#8, 0x78#8] ++ [hexDigit (v / 16), hexDigit (v % 16)] := by
  simp [hexLit, h]

/-- The digits in base 16 of a byte that has two of them, least significant first. -/
theorem digits_of_ge {v : Nat} (hlow : 16 ≤ v) (hhigh : v < 256) : Nat.digits 16 v = [v % 16, v / 16] := by
  rw [Nat.digits_def' (by decide) (by omega), Nat.digits_of_lt 16 (v / 16) (by omega) (by omega)]

/-- A literal is its prefix and the minimal hexadecimal digits (R88). -/
theorem hexLit_eq_digits {v : Nat} (h : v < 256) : hexLit v = [0x30#8, 0x78#8] ++
    (if v = 0 then [0x30#8] else (Nat.digits 16 v).reverse.map hexDigit) := by
  split
  · subst v
    rfl
  · by_cases hv : v < 16
    · rw [hexLit_of_lt hv, Nat.digits_of_lt 16 v ‹_› hv]
      rfl
    · rw [hexLit_of_ge (not_lt.1 hv), digits_of_ge (not_lt.1 hv) h]
      rfl

theorem hexLit_length (v : Nat) : (hexLit v).length = if v < 16 then 3 else 4 := by
  split
  · rw [hexLit_of_lt ‹_›]
    rfl
  · rw [hexLit_of_ge (not_lt.1 ‹_›)]
    rfl

theorem hexDigit_inj : ∀ d < 16, ∀ e < 16, hexDigit d = hexDigit e → d = e := by decide

/-- Equal literals have the same length, and then the same digits (R88). -/
theorem hexLit_inj {u v : Nat} (hu : u < 256) (hv : v < 256) (h : hexLit u = hexLit v) : u = v := by
  have hlength := congrArg List.length h
  rw [hexLit_length, hexLit_length] at hlength
  by_cases hu16 : u < 16 <;> by_cases hv16 : v < 16
  · rw [hexLit_of_lt hu16, hexLit_of_lt hv16] at h
    exact hexDigit_inj u hu16 v hv16 (by simpa using h)
  · simp [hu16, hv16] at hlength
  · simp [hu16, hv16] at hlength
  · rw [hexLit_of_ge (not_lt.1 hu16), hexLit_of_ge (not_lt.1 hv16)] at h
    obtain ⟨hdiv, hmod⟩ : hexDigit (u / 16) = hexDigit (v / 16) ∧ hexDigit (u % 16) = hexDigit (v % 16) := by
      simpa using h
    have hdiv := hexDigit_inj _ (by omega) _ (by omega) hdiv
    have hmod := hexDigit_inj _ (by omega) _ (by omega) hmod
    omega

/-- Settles O32: one digit below 16, two above. -/
theorem literalIsMinimalLowercaseHex : Obligations.LiteralIsMinimalLowercaseHex := by
  refine fun v hv => ⟨hexLit_eq_digits hv, ?_, fun u hu h => hexLit_inj hu hv h⟩
  rw [hexLit_length]
  split <;> simp

/-! ### The counts of the text -/

section
variable {b : Byte}

/-- A byte that is no digit stands in a literal where it stands in the prefix alone (R88). -/
theorem count_hexLit (hb : ∀ d < 16, hexDigit d ≠ b) {v : Nat} (hv : v < 256) :
    (hexLit v).count b = [0x30#8, 0x78#8].count b := by
  by_cases h16 : v < 16
  · rw [hexLit_of_lt h16, List.count_append, List.count_cons_of_ne (hb v h16), List.count_nil, Nat.add_zero]
  · rw [hexLit_of_ge (not_lt.1 h16), List.count_append, List.count_cons_of_ne (hb (v / 16) (by omega)),
      List.count_cons_of_ne (hb (v % 16) (by omega)), List.count_nil, Nat.add_zero]

/-- The literals joined: each with its prefix, and one separator less than literals (R89). -/
theorem count_joinLiterals (hb : ∀ d < 16, hexDigit d ≠ b) {values : List Nat} (h : ∀ v ∈ values, v < 256) :
    (joinLiterals values).count b =
      values.length * [0x30#8, 0x78#8].count b + (values.length - 1) * sep.count b := by
  induction values with
  | nil => simp [joinLiterals]
  | cons v vs ih =>
    have hv := count_hexLit hb (h v List.mem_cons_self)
    have hvs := ih fun w hw => h w (List.mem_cons_of_mem v hw)
    cases vs with
    | nil => simp [joinLiterals, hv]
    | cons u us =>
      rw [joinLiterals, List.count_append, List.count_append, hv, hvs]
      simp only [List.length_cons, Nat.add_sub_cancel]
      ring

/-- A line ends once (R89). -/
theorem count_line (hb : ∀ d < 16, hexDigit d ≠ b) (s : State) (col : Nat) : (s.line col).count b =
    nGroups s.sbit.rows.toNat * [0x30#8, 0x78#8].count b + (nGroups s.sbit.rows.toNat - 1) * sep.count b +
      eol.count b := by
  have hvalues : ∀ v ∈ (List.range (nGroups s.sbit.rows.toNat)).map (fun k => s.groupVal col k), v < 256 := by
    intro v hv
    obtain ⟨k, -, rfl⟩ := List.mem_map.1 hv
    exact groupVal_lt_256 s col k
  rw [State.line, lineOf, List.count_append, count_joinLiterals hb hvalues, List.length_map, List.length_range]

/-- Every line of the text has the same counts (R90). -/
theorem count_packText (hb : ∀ d < 16, hexDigit d ≠ b) (s : State) : s.packText.count b = s.sbit.cols.toNat *
    (nGroups s.sbit.rows.toNat * [0x30#8, 0x78#8].count b + (nGroups s.sbit.rows.toNat - 1) * sep.count b +
      eol.count b) := by
  have hlines : (List.range s.sbit.cols.toNat).map (List.count b ∘ fun c => s.line (src c s.sbit.cols.toNat)) =
      (List.range s.sbit.cols.toNat).map fun _ => nGroups s.sbit.rows.toNat * [0x30#8, 0x78#8].count b +
        (nGroups s.sbit.rows.toNat - 1) * sep.count b + eol.count b :=
    List.map_congr_left fun c _ => count_line hb s _
  rw [State.packText, List.count_flatMap, hlines, List.map_const', List.sum_replicate, List.length_range, smul_eq_mul]

end

theorem count_packText_lineFeed (s : State) : s.packText.count 0x0A#8 = s.sbit.cols.toNat := by
  rw [count_packText (by decide)]
  simp [sep, eol]

theorem count_packText_x (s : State) :
    s.packText.count 0x78#8 = s.sbit.cols.toNat * nGroups s.sbit.rows.toNat := by
  rw [count_packText (by decide)]
  simp [sep, eol]

theorem count_packText_comma (s : State) :
    s.packText.count 0x2C#8 = s.sbit.cols.toNat * (nGroups s.sbit.rows.toNat - 1) := by
  rw [count_packText (by decide)]
  simp [sep, eol]

/-! ### PACK -/

/-- What PACK leaves when it emits, under the configured dimensions (R83). -/
def State.packed (s : State) : State :=
  { s with height := s.rows, width := s.cols, out := s.out ++ [s.packFrame], txt := s.txt ++ s.packFrame.text }

section
variable {s : State}

/-- PACK refuses to run before INVERT has (R83). -/
theorem exec_pack_notReady (h : s.sbit.valid = 0#1) : exec .pack s = .next (s.takeFault ⟨.notReady, .pack⟩) :=
  congrArg Host.Outcome.next (runStages_error (packStage_error.2 (.inl ⟨h, rfl⟩)))

/-- PACK on stored bits of the configured dimensions emits their frame and its text (R83). -/
theorem exec_pack_ok (hsbit : s.sbit.valid = 1#1) (hrows : s.sbit.rows = s.rows) (hcols : s.sbit.cols = s.cols) :
    exec .pack s = .next s.packed := by
  have hstage := packStage_ok.2 ⟨hsbit, hrows, hcols, rfl⟩
  have hheight : s.packFrame.height = s.rows := hrows
  have hwidth : s.packFrame.width = s.cols := hcols
  rw [State.emit, packText_eq, hheight, hwidth] at hstage
  exact congrArg Host.Outcome.next (runStages_ok hstage)

/-- The group values of the frame, column by column in emission order (R83, R86). -/
theorem packFrame_values : s.packFrame.columns.map (fun c => c.groups.map fun g => g.value.toNat) =
    (List.range s.sbit.cols.toNat).map fun c =>
      (List.range (nGroups s.sbit.rows.toNat)).map fun k => s.groupVal (src c s.sbit.cols.toNat) k := by
  rw [State.packFrame, List.map_map]
  exact List.map_congr_left fun c _ => groupsOf_values s (src c s.sbit.cols.toNat)

end

/-- Settles O29: PACK raises by the first check that fails, and otherwise emits; SBIT, all that it reads, it does not
write, so once more it emits the same. -/
theorem packEmitsOneWholeFrame : Obligations.PackEmitsOneWholeFrame := by
  refine ⟨rfl, fun s => ⟨exec_pack_notReady, exec_pack_mismatch, fun hsbit hrows hcols => ?_⟩⟩
  refine ⟨s.packFrame, hrows, hcols, packFrame_inv s, ?_, exec_pack_ok hsbit hrows hcols, ?_⟩
  · rw [packFrame_values, hrows, hcols]
  · exact exec_pack_ok (s := s.packed) hsbit hrows hcols

/-- Settles O33: the text of PACK is the concatenation by definition, and each line has the same counts. -/
theorem packedTextHasOneLinePerColumn : Obligations.PackedTextHasOneLinePerColumn := by
  intro s hsbit hrows hcols
  have hlines : s.packFrame.text = s.packText := (packText_eq s).symm
  refine ⟨_, s.packText, exec_pack_ok hsbit hrows hcols, congrArg (s.txt ++ ·) hlines, ?_, ?_, ?_, ?_⟩
  · rw [State.packText, hcols]
  · rw [count_packText_lineFeed, hcols]
  · rw [count_packText_x, hcols, hrows]
  · rw [count_packText_comma, hcols, hrows]

/-! ### The stages of a conversion -/

/-- What GEN leaves (R63). -/
def State.afterGen (s : State) : State := s.putBayer s.msize (genGrid s.msize.toNat)

/-- What GEN and LUMA leave (R71). -/
def State.afterLuma (s : State) : State := s.afterGen.putLum s.rows s.cols s.lumGrid

/-- What GEN to DITHER leave (R76). -/
def State.afterDither (s : State) : State :=
  s.afterLuma.putDbit s.rows s.cols (Grid.build s.rows.toNat s.cols.toNat s.afterLuma.ditherBit)

/-- What GEN to INVERT leave (R80). -/
def State.afterInvert (s : State) : State :=
  s.afterDither.putSbit s.rows s.cols (Grid.build s.rows.toNat s.cols.toNat s.afterDither.storedBit)

section
variable {s : State}

theorem exec_convert_eq : exec .convert s = .next (runStages stages s) := rfl

/-- A conversion that is ready is PACK on what the four stages before it leave (R98). -/
theorem exec_convert_ready (h : s.readyToConvert) :
    exec .convert s = .next (s.afterInvert.emit s.afterInvert.packFrame s.afterInvert.packText) := by
  obtain ⟨hmsize, hpixok, hch, hdim⟩ := h
  have hgen : genStage s = .ok s.afterGen := genStage_ok.2 ⟨hmsize, rfl⟩
  have hluma : lumaStage s.afterGen = .ok s.afterLuma := lumaStage_ok.2 ⟨hpixok, hch, hdim, rfl⟩
  have hdither : ditherStage s.afterLuma = .ok s.afterDither := ditherStage_ok.2 ⟨rfl, rfl, rfl, rfl, rfl, rfl⟩
  have hinvert : invertStage s.afterDither = .ok s.afterInvert := invertStage_ok.2 ⟨rfl, rfl, rfl, rfl⟩
  have hpack : packStage s.afterInvert = .ok _ := packStage_ok.2 ⟨rfl, rfl, rfl, rfl⟩
  rw [exec_convert_eq, stages, runStages_ok hgen, runStages_ok hluma, runStages_ok hdither, runStages_ok hinvert,
    runStages_ok hpack, runStages_nil]

/-- The matrix of a conversion is the one GEN built (R20). -/
theorem bayerInv_afterLuma (h : isValidN s.msize.toNat = true) : s.afterLuma.bayerInv := by
  have hvalid : s.afterLuma.bayer.valid = 1#1 := rfl
  rw [State.bayerInv, if_pos hvalid]
  exact ⟨h, rfl⟩

/-- The decision of a pixel in a conversion (R76). -/
theorem dbitAt_afterInvert {i j : Nat} (hi : i < s.rows.toNat) (hj : j < s.cols.toNat) :
    s.afterInvert.dbitAt i j = s.afterLuma.ditherBit i j :=
  State.dbitAt_putDbit s.afterLuma hi hj

/-- The stored bit of a pixel in a conversion (R80). -/
theorem sbitAt_afterInvert {i j : Nat} (hi : i < s.rows.toNat) (hj : j < s.cols.toNat) :
    s.afterInvert.sbitAt i j = 1#1 - s.afterLuma.ditherBit i j :=
  (State.sbitAt_putSbit s.afterDither hi hj).trans (congrArg (1#1 - ·) (dbitAt_afterInvert hi hj))

/-! ### The white image -/

/-- Every pixel of a white grid has the luminance of white (R95). -/
theorem lumAt_afterLuma_white (hwhite : ∀ a < 3 * s.rows.toNat * s.cols.toNat, s.pixByte a = 255#8) {i j : Nat}
    (hi : i < s.rows.toNat) (hj : j < s.cols.toNat) : (s.afterLuma.lumAt i j).toNat = lumNum 255 255 255 := by
  have hsample : ∀ k < 3, s.sample i j k = 255 := fun k hk => by
    rw [State.sample, hwhite _ (pixAddr_lt hi hj hk)]
    rfl
  have hlum : (s.afterLuma.lumAt i j).toNat = lumNum (s.sample i j 0) (s.sample i j 1) (s.sample i j 2) :=
    toNat_lumAt_putLum_lumGrid hi hj
  rw [hlum, hsample 0 (by decide), hsample 1 (by decide), hsample 2 (by decide)]

/-- A white grid is decided 1 at every pixel (R95). -/
theorem ditherBit_afterLuma_white (h : isValidN s.msize.toNat = true)
    (hwhite : ∀ a < 3 * s.rows.toNat * s.cols.toNat, s.pixByte a = 255#8) {i j : Nat} (hi : i < s.rows.toNat)
    (hj : j < s.cols.toNat) : s.afterLuma.ditherBit i j = 1#1 :=
  ditherBit_white (bayerInv_afterLuma h) rfl (lumAt_afterLuma_white hwhite hi hj)

end

section
variable {s : State}

/-- A group of stored bits 0 has the value 0 (R86). -/
theorem groupVal_eq_zero {col k : Nat} (h : ∀ i < s.sbit.rows.toNat, s.sbitAt i col = 0#1)
    (hk : k < nGroups s.sbit.rows.toNat) : s.groupVal col k = 0 := by
  refine List.sum_eq_zero fun x hx => ?_
  obtain ⟨t, ht, rfl⟩ := List.mem_map.1 hx
  have hinside := groupBits_inside hk
  have ht := List.mem_range.1 ht
  have hrow : groupRows * k + t < s.sbit.rows.toNat := by
    rw [show groupRows = 8 from rfl]
    omega
  rw [h _ hrow, BitVec.toNat_zero, Nat.zero_mul]

variable (hzero : ∀ i < s.sbit.rows.toNat, ∀ j < s.sbit.cols.toNat, s.sbitAt i j = 0#1)
include hzero

/-- The frame of stored bits all 0 has group values all 0 (R95). -/
theorem packFrame_value_eq_zero {c : Column} (hc : c ∈ s.packFrame.columns) {g : Group} (hg : g ∈ c.groups) :
    g.value = 0#8 := by
  obtain ⟨pos, hpos, rfl⟩ := List.mem_map.1 hc
  obtain ⟨k, hk, rfl⟩ := List.mem_map.1 hg
  have hcol := src_lt (Nat.one_le_of_lt (List.mem_range.1 hpos)) pos
  exact congrArg (BitVec.ofNat 8) (groupVal_eq_zero (fun i hi => hzero i hi _ hcol) (List.mem_range.1 hk))

/-- The line of a column of stored bits all 0 (R89, R95). -/
theorem line_eq_zeros {col : Nat} (hcol : col < s.sbit.cols.toNat) :
    s.line col = lineOf (List.replicate (nGroups s.sbit.rows.toNat) 0) := by
  have hvalues : (List.range (nGroups s.sbit.rows.toNat)).map (fun k => s.groupVal col k) =
      (List.range (nGroups s.sbit.rows.toNat)).map fun _ => 0 :=
    List.map_congr_left fun k hk => groupVal_eq_zero (fun i hi => hzero i hi col hcol) (List.mem_range.1 hk)
  rw [State.line, hvalues, List.map_const', List.length_range]

/-- The text of stored bits all 0 is one such line per column (R90, R95). -/
theorem packText_eq_zeros : s.packText =
    (List.replicate s.sbit.cols.toNat (lineOf (List.replicate (nGroups s.sbit.rows.toNat) 0))).flatten := by
  have hlines : (List.range s.sbit.cols.toNat).map (fun c => s.line (src c s.sbit.cols.toNat)) =
      (List.range s.sbit.cols.toNat).map fun _ => lineOf (List.replicate (nGroups s.sbit.rows.toNat) 0) :=
    List.map_congr_left fun c hc => line_eq_zeros hzero (src_lt (Nat.one_le_of_lt (List.mem_range.1 hc)) c)
  rw [State.packText, List.flatMap_def, hlines, List.map_const', List.length_range]

end

/-- Settles O60: white is decided 1 under every legal matrix, so every stored bit is 0, and with it every value and
every literal. -/
theorem whiteImagePacksToZero : Obligations.WhiteImagePacksToZero := by
  intro s hready hwhite
  have hmsize : isValidN s.msize.toNat = true := hready.1
  have hbit : ∀ i < s.rows.toNat, ∀ j < s.cols.toNat, s.afterLuma.ditherBit i j = 1#1 :=
    fun i hi j hj => ditherBit_afterLuma_white hmsize hwhite hi hj
  have hzero : ∀ i < s.rows.toNat, ∀ j < s.cols.toNat, s.afterInvert.sbitAt i j = 0#1 :=
    fun i hi j hj => (sbitAt_afterInvert hi hj).trans (one_sub_bit_eq_zero_iff.2 (hbit i hi j hj))
  refine ⟨_, s.afterInvert.packFrame, exec_convert_ready hready, rfl, fun i hi j hj => ⟨?_, hzero i hi j hj⟩,
    fun c hc g hg => packFrame_value_eq_zero hzero hc hg, congrArg (s.txt ++ ·) (packText_eq_zeros hzero), rfl⟩
  exact (dbitAt_afterInvert hi hj).trans (hbit i hi j hj)

end Sys2Proof.Machine
end

section
/-! SUPPORT. Proofs on CONVERT, RST and dispatch (45_convert_and_control.md, R96 to R101): the order of dispatch, RST,
the faults of a conversion, its frame pixel by pixel, what it depends on, and CONVERT against the five stage commands. -/

namespace Sys2Proof.Machine

/-! ### Dispatch and RST -/

/-- Settles O7: the step presents the word, and dispatch answers it by the first of R96's clauses that applies. -/
theorem dispatchFollowsItsOrder : Obligations.DispatchFollowsItsOrder := by
  intro s w rest hin
  have hstep : step s = present w (s.withInput rest) := step_of_input hin
  rw [hstep]
  refine ⟨?_, present_discarded (s := s.withInput rest), fun _ herr => ⟨fun e hdec => ?_, fun i hdec => ?_⟩⟩
  · rintro rfl
    exact present_eq_exec decode_rstWord (.inr rfl)
  · exact present_illegal hdec herr
  · exact present_eq_exec hdec (.inl herr)

/-- The reset state is what RST returns to, so RST leaves it as it is (R29, R99). -/
theorem softReset_resetOf (b : Build) : (State.resetOf b).softReset = State.resetOf b := rfl

/-- Settles O38: RST is the soft reset of the state, whatever the state. -/
theorem rstReturnsToTheResetState : Obligations.RstReturnsToTheResetState :=
  ⟨rfl, fun s => ⟨s.softReset, rfl, rfl⟩, fun b => congrArg Host.Outcome.next (softReset_resetOf b)⟩

/-! ### The faults of a conversion -/

/-- The raises of a conversion: GEN's, or behind a GEN that answered, LUMA's. LUMA reads nothing GEN writes (R98). -/
def State.convertRaises (s : State) (r : Raise) : Prop :=
  genStage s = .error r ∨ isValidN s.msize.toNat = true ∧ lumaStage s = .error r

section
variable {s : State} {r : Raise}

/-- A conversion is ready, or GEN or LUMA raises (R98, R117). -/
theorem readyToConvert_or_convertRaises (s : State) : s.readyToConvert ∨ ∃ r, s.convertRaises r := by
  cases hgen : genStage s with
  | error r => exact .inr ⟨r, .inl hgen⟩
  | ok t =>
    obtain ⟨hmsize, -⟩ := genStage_ok.1 hgen
    cases hluma : lumaStage s with
    | error r => exact .inr ⟨r, .inr ⟨hmsize, hluma⟩⟩
    | ok u =>
      obtain ⟨hpixok, hch, hdim, -⟩ := lumaStage_ok.1 hluma
      exact .inl ⟨hmsize, hpixok, hch, hdim⟩

/-- Where GEN raises, CONVERT has written nothing before the fault (R98). -/
theorem exec_convert_gen_error (h : genStage s = .error r) : exec .convert s = .next (s.takeFault r) :=
  congrArg Host.Outcome.next (runStages_error h)

/-- Where LUMA raises, CONVERT has written GEN's matrix before the fault (R98). -/
theorem exec_convert_luma_error (hmsize : isValidN s.msize.toNat = true) (h : lumaStage s = .error r) :
    exec .convert s = .next (s.afterGen.takeFault r) := by
  have hgen : genStage s = .ok s.afterGen := genStage_ok.2 ⟨hmsize, rfl⟩
  have hcause := lumaStage_error.1 h
  have hluma : lumaStage s.afterGen = .error r := lumaStage_error.2 hcause
  rw [exec_convert_eq, stages, runStages_ok hgen, runStages_error hluma]

/-- A conversion that raises records the fault and emits nothing (R98, R106). -/
theorem exec_convert_of_convertRaises (h : s.convertRaises r) :
    ∃ u : State, exec .convert s = .next (u.takeFault r) ∧ u.out = s.out ∧ u.txt = s.txt := by
  rcases h with hgen | ⟨hmsize, hluma⟩
  · exact ⟨s, exec_convert_gen_error hgen, rfl, rfl⟩
  · exact ⟨s.afterGen, exec_convert_luma_error hmsize hluma, rfl, rfl⟩

end

/-- Settles O36: the first check that fails is GEN's, or the first of LUMA's. -/
theorem convertFaultsOnlyInGenAndLuma : Obligations.ConvertFaultsOnlyInGenAndLuma := fun _ =>
  ⟨fun hmsize => exec_convert_gen_error (genStage_error.2 ⟨hmsize, rfl⟩),
    fun hmsize hpixok => exec_convert_luma_error hmsize (lumaStage_error.2 (.inl ⟨hpixok, rfl⟩)),
    fun hmsize hpixok h => exec_convert_luma_error hmsize (lumaStage_error.2 (.inr ⟨hpixok, h, rfl⟩))⟩

/-! ### The frame of a conversion, pixel by pixel -/

section
variable {s : State}

/-- The luminance of a pixel in a conversion (R71, R72). -/
theorem lumAt_afterLuma {i j : Nat} (hi : i < s.rows.toNat) (hj : j < s.cols.toNat) :
    (s.afterLuma.lumAt i j).toNat = lumNum (s.sample i j 0) (s.sample i j 1) (s.sample i j 2) :=
  toNat_lumAt_putLum_lumGrid hi hj

/-- In a conversion a pixel is compared with the rank of Gen(MSIZE) at its place in the tile (R65, R78). -/
theorem tiledRank_afterLuma (h : isValidN s.msize.toNat = true) (i j : Nat) :
    s.afterLuma.tiledRank i j = genRank s.msize.toNat (i % s.msize.toNat) (j % s.msize.toNat) := by
  obtain ⟨-, hlow, -⟩ := (isValidN_iff _).1 h
  have hpos : 0 < s.msize.toNat := by omega
  exact bayerAt_putBayer_genGrid (s := s) s.msize h (Nat.mod_lt i hpos) (Nat.mod_lt j hpos)

theorem pixelBit_le_one (s : State) (n i j : Nat) : s.pixelBit n i j ≤ 1 := by
  unfold State.pixelBit
  split <;> omega

/-- The decision of a pixel in a conversion is the complement of the bit that R80 has stored for it (R77, R78). -/
theorem toNat_ditherBit_afterLuma (h : isValidN s.msize.toNat = true) {i j : Nat} (hi : i < s.rows.toNat)
    (hj : j < s.cols.toNat) : (s.afterLuma.ditherBit i j).toNat = 1 - s.pixelBit s.msize.toNat i j := by
  have hsize : s.afterLuma.bayer.size = s.msize := rfl
  rw [State.pixelBit, ← lumAt_afterLuma hi hj, ← tiledRank_afterLuma h i j, ← hsize]
  split
  · rw [ditherBit_eq_one_iff.2 ‹_›]
    rfl
  · rw [ditherBit_eq_zero_iff.2 (Bool.eq_false_of_not_eq_true ‹_›)]
    rfl

/-- The stored bit of a pixel in a conversion, from the samples of the pixel (R80). -/
theorem toNat_sbitAt_afterInvert (h : isValidN s.msize.toNat = true) {i j : Nat} (hi : i < s.rows.toNat)
    (hj : j < s.cols.toNat) : (s.afterInvert.sbitAt i j).toNat = s.pixelBit s.msize.toNat i j := by
  have hle := pixelBit_le_one s s.msize.toNat i j
  rw [sbitAt_afterInvert hi hj, toNat_one_sub_bit, toNat_ditherBit_afterLuma h hi hj]
  omega

/-- A group of a conversion has the value of its pixels' bits (R86). -/
theorem groupVal_afterInvert (h : isValidN s.msize.toNat = true) {col k : Nat} (hcol : col < s.cols.toNat)
    (hk : k < nGroups s.rows.toNat) :
    s.afterInvert.groupVal col k = s.pixelGroup s.msize.toNat s.rows.toNat col k := by
  have hinside := groupBits_inside hk
  refine congrArg List.sum (List.map_congr_left fun t ht => ?_)
  have hrow : 8 * k + t < s.rows.toNat := by
    have ht : t < groupBits s.rows.toNat k := List.mem_range.1 ht
    omega
  exact congrArg (· * _) (toNat_sbitAt_afterInvert h hrow hcol)

/-- PACK's frame in a conversion is the one R83 to R92 give from the pixel grid. -/
theorem packFrame_afterInvert (h : isValidN s.msize.toNat = true) : s.afterInvert.packFrame = s.convertedFrame := by
  refine congrArg (Frame.mk s.rows s.cols) (List.map_congr_left fun c hc => ?_)
  have hcol : src c s.cols.toNat < s.cols.toNat := src_lt (Nat.one_le_of_lt (List.mem_range.1 hc)) c
  refine congrArg (Column.mk c (src c s.cols.toNat)) (List.map_congr_left fun k hk => ?_)
  exact congrArg (fun v => Group.mk (BitVec.ofNat 8 v) _) (groupVal_afterInvert h hcol (List.mem_range.1 hk))

end

/-- Settles O35: PACK's frame on what the four stages before it leave is the frame of the pixel grid, and the grids hold
each pixel's luminance and bits. -/
theorem convertComputesTheFrameOfThePixelGrid : Obligations.ConvertComputesTheFrameOfThePixelGrid := by
  intro s hready
  have hmsize : isValidN s.msize.toNat = true := hready.1
  have hexec := exec_convert_ready hready
  rw [packText_eq, packFrame_afterInvert hmsize] at hexec
  refine ⟨_, hexec, rfl, fun i hi j hj => ⟨lumAt_afterLuma hi hj, toNat_sbitAt_afterInvert hmsize hi hj, ?_⟩⟩
  exact (congrArg BitVec.toNat (dbitAt_afterInvert hi hj)).trans (toNat_ditherBit_afterLuma hmsize hi hj)

/-! ### What a conversion depends on -/

/-- The configuration, the build and the bytes of the pixel grid are the same: all a conversion reads (R98, R101). -/
structure SameConversionInput (s s' : State) : Prop extends SameConfiguration s s' where
  build : s'.build = s.build
  pixels : ∀ a < 3 * s.rows.toNat * s.cols.toNat, s'.pixByte a = s.pixByte a

/-- The four stages before PACK leave the fault registers and the histories (R98). -/
theorem histories_afterInvert (s : State) : s.afterInvert.err = s.err ∧ s.afterInvert.errstg = s.errstg ∧
    s.afterInvert.out = s.out ∧ s.afterInvert.txt = s.txt := ⟨rfl, rfl, rfl, rfl⟩

/-- A conversion that is ready raises nothing and emits PACK's frame with its text (R98). -/
theorem histories_of_convert_ready {s t : State} (hready : s.readyToConvert) (h : exec .convert s = .next t) :
    t.err = s.err ∧ t.errstg = s.errstg ∧ t.out = s.out ++ [s.afterInvert.packFrame] ∧
      t.txt = s.txt ++ textOf [s.afterInvert.packFrame] := by
  have htext : textOf [s.afterInvert.packFrame] = s.afterInvert.packText := by simp [textOf, packText_eq]
  rw [exec_convert_ready hready] at h
  obtain rfl := Host.Outcome.next.inj h
  obtain ⟨herr, hstg, hout, htxt⟩ := histories_afterInvert s
  rw [State.emit_err, State.emit_errstg, State.emit_out, State.emit_txt, herr, hstg, hout, htxt, htext]
  exact ⟨rfl, rfl, rfl, rfl⟩

section
variable {s s' : State}

/-- The decisions depend on LUM and BAYER alone (R76). -/
theorem ditherBit_congr (hlum : s'.lum = s.lum) (hbayer : s'.bayer = s.bayer) : s'.ditherBit = s.ditherBit := by
  funext i j
  have hlumAt : s'.lumAt = s.lumAt := by
    unfold State.lumAt
    rw [hlum]
  have hbayerAt : s'.bayerAt = s.bayerAt := by
    unfold State.bayerAt
    rw [hbayer]
  rw [State.ditherBit, State.ditherBit, hlumAt, hbayerAt, hbayer]

/-- The stored bits depend on DBIT alone (R80). -/
theorem storedBit_congr (hdbit : s'.dbit = s.dbit) : s'.storedBit = s.storedBit := by
  funext i j
  simp only [State.storedBit, State.dbitAt, hdbit]

/-- The frame PACK emits depends on SBIT alone (R83). -/
theorem packFrame_congr (hsbit : s'.sbit = s.sbit) : s'.packFrame = s.packFrame := by
  have hcolumn : s'.columnRecord = s.columnRecord := by
    funext c
    simp only [State.columnRecord, State.groupsOf, State.groupVal, State.sbitAt, hsbit]
  rw [State.packFrame, State.packFrame, hcolumn, hsbit]

/-- On the same input the four stages before PACK leave the same stored bits, stage by stage (R98). -/
theorem sbit_afterInvert_congr (h : SameConversionInput s s') : s'.afterInvert.sbit = s.afterInvert.sbit := by
  have hbayer : s'.afterLuma.bayer = s.afterLuma.bayer := by
    change Matrix.mk 1#1 s'.msize (genGrid s'.msize.toNat) = _
    rw [h.msize]
    rfl
  have hlum : s'.afterLuma.lum = s.afterLuma.lum := by
    change Plane.mk 1#1 s'.rows s'.cols s'.lumGrid = _
    rw [lumGrid_congr h.rows h.cols h.pixels, h.rows, h.cols]
    rfl
  have hdbit : s'.afterDither.dbit = s.afterDither.dbit := by
    change Plane.mk 1#1 s'.rows s'.cols (Grid.build s'.rows.toNat s'.cols.toNat s'.afterLuma.ditherBit) = _
    rw [ditherBit_congr hlum hbayer, h.rows, h.cols]
    rfl
  change Plane.mk 1#1 s'.rows s'.cols (Grid.build s'.rows.toNat s'.cols.toNat s'.afterDither.storedBit) = _
  rw [storedBit_congr hdbit, h.rows, h.cols]
  rfl

theorem dimensionsLegal_congr (h : SameConversionInput s s') : s'.dimensionsLegal = s.dimensionsLegal := by
  simp only [State.dimensionsLegal, h.rows, h.cols, h.build]

theorem readyToConvert_congr (h : SameConversionInput s s') (hready : s.readyToConvert) : s'.readyToConvert := by
  simpa only [State.readyToConvert, dimensionsLegal_congr h, h.msize, h.pixok, h.ch] using hready

/-- On the same input the same fault is raised (R101). -/
theorem convertRaises_congr (h : SameConversionInput s s') {r : Raise} (hr : s.convertRaises r) :
    s'.convertRaises r := by
  simpa only [State.convertRaises, genStage_error, lumaStage_error, dimensionsLegal_congr h, h.msize, h.pixok, h.ch]
    using hr

end

/-- Settles O59: on the same input both conversions emit the same one frame, or both raise the same fault and emit
nothing. -/
theorem convertDependsOnlyOnConfigurationAndPixels : Obligations.ConvertDependsOnlyOnConfigurationAndPixels := by
  intro s s' t t' hbuild hmsize hrows hcols hch hpixok herr herr' hstg hstg' hpixels ht ht'
  have hsame : SameConversionInput s s' :=
    ⟨⟨hmsize.symm, hrows.symm, hcols.symm, hch.symm, hpixok.symm⟩, hbuild.symm, fun a ha => (hpixels a ha).symm⟩
  rcases readyToConvert_or_convertRaises s with hready | ⟨r, hraise⟩
  · have hframe := packFrame_congr (sbit_afterInvert_congr hsame)
    obtain ⟨terr, tstg, tout, ttxt⟩ := histories_of_convert_ready hready ht
    obtain ⟨terr', tstg', tout', ttxt'⟩ := histories_of_convert_ready (readyToConvert_congr hsame hready) ht'
    rw [hframe] at tout' ttxt'
    refine ⟨?_, ?_, _, tout, tout', ttxt, ttxt'⟩
    · rw [terr, terr', herr, herr']
    · rw [tstg, tstg', hstg, hstg']
  · obtain ⟨u, hu, hout, htxt⟩ := exec_convert_of_convertRaises hraise
    obtain ⟨u', hu', hout', htxt'⟩ := exec_convert_of_convertRaises (convertRaises_congr hsame hraise)
    obtain rfl := Host.Outcome.next.inj (hu.symm.trans ht)
    obtain rfl := Host.Outcome.next.inj (hu'.symm.trans ht')
    exact ⟨rfl, rfl, [], by simp [hout], by simp [hout'], by simp [htxt, textOf], by simp [htxt', textOf]⟩

/-! ### CONVERT against the five stage commands -/

/-- The command `i` is the stage `f` alone (R63, R71, R76, R80, R83). -/
def RunsStage (i : Instr) (f : State → Except Raise State) : Prop := ∀ s, exec i s = .next (runStages [f] s)

theorem stageCommands_runStage : List.Forall₂ RunsStage stageCommands stages :=
  .cons (fun _ => rfl) (.cons (fun _ => rfl) (.cons (fun _ => rfl) (.cons (fun _ => rfl) (.cons (fun _ => rfl) .nil))))

/-- Only RST has RST's word (R96). -/
theorem encode_ne_rstWord {i : Instr} (hi : i ≠ .rst) : encode i ≠ rstWord := by
  intro h
  exact hi (Except.ok.inj ((decode_encode i).symm.trans (h ▸ decode_rstWord)))

/-- Running stages leaves the host's sequence alone and does not read it (R18). -/
theorem runStages_withInput {fs : List (State → Except Raise State)} (hfs : ∀ f ∈ fs, f ∈ stages) (s : State)
    (l : List HostAction) : runStages fs (s.withInput l) = (runStages fs s).withInput l := by
  induction fs generalizing s with
  | nil => rfl
  | cons f fs ih =>
    obtain ⟨hf, hfs⟩ := List.forall_mem_cons.1 hfs
    obtain ⟨hok, herror⟩ := stage_withInput hf s l
    rcases runStages_cases f fs s with ⟨t, ht, hrun⟩ | ⟨r, hr, hrun⟩
    · rw [hrun, runStages_ok (hok t ht), ih hfs]
    · rw [hrun, runStages_error (herror r hr)]
      rfl

section
variable {s : State} {rest : List HostAction}

/-- The step on a command presented next is dispatch's answer to its word (R18, R96). -/
theorem step_presents (i : Instr) :
    step (s.withInput (commandAction i :: rest)) = present (encode i) (s.withInput rest) :=
  step_of_input (s := s.withInput (commandAction i :: rest)) rfl

/-- The step on a command presented next, with no fault recorded, executes it (R18, R96). -/
theorem step_commandAction (i : Instr) (herr : s.err = 0#3) :
    step (s.withInput (commandAction i :: rest)) = exec i (s.withInput rest) :=
  (step_presents i).trans (present_eq_exec (s := s.withInput rest) (decode_encode i) (.inl herr))

/-- The step on a command other than RST presented next, with a fault recorded, discards it (R96). -/
theorem step_commandAction_discarded {i : Instr} (hi : i ≠ .rst) (herr : s.err ≠ 0#3) :
    step (s.withInput (commandAction i :: rest)) = .next (s.withInput rest) :=
  (step_presents i).trans (present_discarded (s := s.withInput rest) (encode_ne_rstWord hi) herr)

/-- A run begins with its first step. -/
theorem run_succ {M : Host.Core} {s t : M.State} (k : Nat) (h : M.step s = .next t) :
    M.run (k + 1) s = M.run k t := by
  rw [Host.Core.run, h]

/-- With a fault recorded, a list of commands other than RST is discarded one by one (R96). -/
theorem run_discarded (herr : s.err ≠ 0#3) {is : List Instr} (his : ∀ i ∈ is, i ≠ .rst) :
    Host.Core.run core is.length (s.withInput (is.map commandAction ++ rest)) = .next (s.withInput rest) := by
  induction is with
  | nil => rfl
  | cons i is ih =>
    obtain ⟨hi, his⟩ := List.forall_mem_cons.1 his
    exact (run_succ _ (step_commandAction_discarded hi herr)).trans (ih his)

end

/-- Commands that are stages, issued one after another, leave what running the stages leaves: after a raise the commands
that follow are discarded, as the stages that follow are not run (R96, R98). -/
theorem run_stageCommands {is : List Instr} {fs : List (State → Except Raise State)}
    (hruns : List.Forall₂ RunsStage is fs) (his : ∀ i ∈ is, i ≠ .rst) (hfs : ∀ f ∈ fs, f ∈ stages)
    {s : State} (herr : s.err = 0#3) (rest : List HostAction) :
    Host.Core.run core is.length (s.withInput (is.map commandAction ++ rest)) =
      .next ((runStages fs s).withInput rest) := by
  induction hruns generalizing s with
  | nil => rfl
  | @cons i f is fs hif _ ih =>
    obtain ⟨-, his⟩ := List.forall_mem_cons.1 his
    obtain ⟨hf, hfs⟩ := List.forall_mem_cons.1 hfs
    have hstep : step (s.withInput (commandAction i :: (is.map commandAction ++ rest))) =
        .next ((runStages [f] s).withInput (is.map commandAction ++ rest)) := by
      rw [step_commandAction i herr, hif, runStages_withInput (List.forall_mem_singleton.2 hf)]
    refine (run_succ _ hstep).trans ?_
    rcases runStages_cases f fs s with ⟨t, ht, hrun⟩ | ⟨r, hr, hrun⟩
    · have hterr : t.err = 0#3 := (stage_ok_err hf ht).1.trans herr
      rw [hrun, runStages_ok ht, runStages_nil, ih his hfs hterr]
    · rw [hrun, runStages_error hr, run_discarded (takeFault_err_ne_zero s r) his]

/-- Settles O37: both are the five stages run on the state, with the rest of the host's sequence behind them. -/
theorem convertEqualsTheFiveStageCommands : Obligations.ConvertEqualsTheFiveStageCommands := by
  intro s rest herr
  have hconvert : step (s.withInput (commandAction .convert :: rest)) =
      .next ((runStages stages s).withInput rest) := by
    rw [step_commandAction .convert herr, exec_convert_eq, runStages_withInput fun _ hf => hf]
  exact hconvert.trans (run_stageCommands stageCommands_runStage (by decide) (fun _ hf => hf) herr rest).symm

end Sys2Proof.Machine
end

section
/-! SUPPORT. Proofs on the faults (60_exceptions.md, R102 to R109): which command raises what, what a fault leaves, and
the causes of each fault. -/

namespace Sys2Proof.Machine

/-! ### What a command raises -/

/-- The command `i` on the state `s` raises `r`: its one stage does, or the conversion does (R102). -/
def State.raises (s : State) : Instr → Raise → Prop
  | .gen, r => genStage s = .error r
  | .luma, r => lumaStage s = .error r
  | .dither, r => ditherStage s = .error r
  | .invert, r => invertStage s = .error r
  | .pack, r => packStage s = .error r
  | .convert, r => s.convertRaises r
  | .nop, _ | .setn _, _ | .setrows _, _ | .setcols _, _ | .setch _, _ | .pixok _, _ | .rst, _ => False

section
variable {s t : State} {i : Instr} {r r' : Raise}

/-- A conversion raises one fault at most: LUMA runs only behind a GEN that answered (R98, R109). -/
theorem convertRaises_unique (h : s.convertRaises r) (h' : s.convertRaises r') : r = r' := by
  have gen_excludes {q : Raise} (hgen : genStage s = .error q) : isValidN s.msize.toNat ≠ true := by
    simp [(genStage_error.1 hgen).1]
  rcases h with hgen | ⟨hmsize, hluma⟩ <;> rcases h' with hgen' | ⟨hmsize', hluma'⟩
  · exact Except.error.inj (hgen.symm.trans hgen')
  · exact absurd hmsize' (gen_excludes hgen)
  · exact absurd hmsize (gen_excludes hgen')
  · exact Except.error.inj (hluma.symm.trans hluma')

/-- One fault at most is raised per command (R109). -/
theorem raises_unique (h : s.raises i r) (h' : s.raises i r') : r = r' := by
  cases i with
  | gen | luma | dither | invert | pack => exact Except.error.inj (h.symm.trans h')
  | convert => exact convertRaises_unique h h'
  | nop | setn | setrows | setcols | setch | pixok | rst => exact h.elim

/-- A conversion that is ready raises nothing (R98). -/
theorem not_convertRaises_of_ready (hready : s.readyToConvert) : ¬ s.convertRaises r := by
  obtain ⟨hmsize, hpixok, hch, hdim⟩ := hready
  simp [State.convertRaises, genStage_error, lumaStage_error, hmsize, hpixok, hch, hdim]

/-- The table of R102: a command raises by the first check of its stage that fails (R103, R104, R105, R107, R109). -/
theorem raises_iff : s.raises i r ↔
    ((i = .gen ∨ i = .convert) ∧ isValidN s.msize.toNat = false ∧ r = ⟨.invalidParameter, .gen⟩) ∨
    ((i = .luma ∨ (i = .convert ∧ isValidN s.msize.toNat = true)) ∧
      ((s.pixok = 0#1 ∧ r = ⟨.malformedInput, .luma⟩) ∨
        (s.pixok = 1#1 ∧ (s.ch ≠ 3#8 ∨ s.dimensionsLegal = false) ∧ r = ⟨.dimensionMismatch, .luma⟩))) ∨
    (i = .dither ∧ (((s.lum.valid = 0#1 ∨ s.bayer.valid = 0#1) ∧ r = ⟨.notReady, .dither⟩) ∨
      (s.lum.valid = 1#1 ∧ s.bayer.valid = 1#1 ∧
        (s.lum.rows ≠ s.rows ∨ s.lum.cols ≠ s.cols ∨ s.bayer.size ≠ s.msize) ∧ r = ⟨.dimensionMismatch, .dither⟩))) ∨
    (i = .invert ∧ ((s.dbit.valid = 0#1 ∧ r = ⟨.notReady, .invert⟩) ∨
      (s.dbit.valid = 1#1 ∧ (s.dbit.rows ≠ s.rows ∨ s.dbit.cols ≠ s.cols) ∧ r = ⟨.dimensionMismatch, .invert⟩))) ∨
    (i = .pack ∧ ((s.sbit.valid = 0#1 ∧ r = ⟨.notReady, .pack⟩) ∨
      (s.sbit.valid = 1#1 ∧ (s.sbit.rows ≠ s.rows ∨ s.sbit.cols ≠ s.cols) ∧ r = ⟨.dimensionMismatch, .pack⟩))) := by
  cases i with
  | gen => simp [State.raises, genStage_error]
  | luma => simp [State.raises, lumaStage_error]
  | dither => simp [State.raises, ditherStage_error]
  | invert => simp [State.raises, invertStage_error]
  | pack => simp [State.raises, packStage_error]
  | convert => simp [State.raises, State.convertRaises, genStage_error, lumaStage_error]
  | nop | setn | setrows | setcols | setch | pixok | rst => simp [State.raises]

/-- GEN's one fault, or a fault of another stage with that stage's number; CONVERT reports the stage that raised, not a
number of its own (R98, R102). -/
theorem raises_stage (h : s.raises i r) : r = ⟨.invalidParameter, .gen⟩ ∨
    (r.kind ≠ .invalidParameter ∧ r.kind ≠ .illegalCommand ∧
      (((i = .luma ∨ i = .convert) ∧ r.stage = .luma) ∨ (i = .dither ∧ r.stage = .dither) ∨
        (i = .invert ∧ r.stage = .invert) ∨ (i = .pack ∧ r.stage = .pack))) := by
  rcases raises_iff.1 h with ⟨-, -, hr⟩ | ⟨hi, ⟨-, rfl⟩ | ⟨-, -, rfl⟩⟩ | ⟨rfl, ⟨-, rfl⟩ | ⟨-, -, -, rfl⟩⟩ |
    ⟨rfl, ⟨-, rfl⟩ | ⟨-, -, rfl⟩⟩ | ⟨rfl, ⟨-, rfl⟩ | ⟨-, -, rfl⟩⟩
  · exact .inl hr
  · simp [hi.imp_right And.left]
  · simp [hi.imp_right And.left]
  all_goals simp

/-! ### What a fault leaves -/

/-- A stage alone: it raises nothing and leaves ERR and ERRSTG, or it raises and writes them alone (R106). -/
theorem runStages_single_outcome {f : State → Except Raise State} (hf : f ∈ stages) (s : State) :
    ((∀ r, f s ≠ .error r) ∧ (runStages [f] s).err = s.err ∧ (runStages [f] s).errstg = s.errstg) ∨
      ∃ r, f s = .error r ∧ runStages [f] s = s.takeFault r := by
  rcases runStages_single (f := f) (s := s) rfl with hok | herror
  · exact .inl ⟨by simp [hok], stage_ok_err hf hok⟩
  · exact .inr herror

/-- Everything a command executed with ERR = 0 can do to ERR: it raises nothing and leaves 0, or it raises and records
the fault in the state before it; a CONVERT that raises in LUMA has written GEN's matrix (R98, R106). -/
theorem exec_outcome (herr : s.err = 0#3) (h : exec i s = .next t) :
    ((∀ r, ¬ s.raises i r) ∧ t.err = 0#3) ∨
      ∃ r, s.raises i r ∧ (t = s.takeFault r ∨ t = s.afterGen.takeFault r) := by
  have of_stage {f : State → Except Raise State} (hf : f ∈ stages) :
      ((∀ r, f s ≠ .error r) ∧ (runStages [f] s).err = 0#3) ∨
        ∃ r, f s = .error r ∧ (runStages [f] s = s.takeFault r ∨ runStages [f] s = s.afterGen.takeFault r) :=
    (runStages_single_outcome hf s).imp (fun ⟨hno, hkeep, _⟩ => ⟨hno, hkeep.trans herr⟩)
      (fun ⟨r, hr, hrun⟩ => ⟨r, hr, .inl hrun⟩)
  cases i with
  | nop | setn | setrows | setcols | setch | pixok => cases h; exact .inl ⟨fun _ => id, herr⟩
  | rst => cases h; exact .inl ⟨fun _ => id, rfl⟩
  | gen | luma | dither | invert | pack => cases h; exact of_stage (by simp [stages])
  | convert =>
    rcases readyToConvert_or_convertRaises s with hready | ⟨r, hr⟩
    · obtain ⟨hkeep, -⟩ := histories_of_convert_ready hready h
      exact .inl ⟨fun _ => not_convertRaises_of_ready hready, hkeep.trans herr⟩
    · refine .inr ⟨r, hr, ?_⟩
      rcases hr with hgen | ⟨hmsize, hluma⟩
      · exact .inl (Host.Outcome.next.inj (h.symm.trans (exec_convert_gen_error hgen)))
      · exact .inr (Host.Outcome.next.inj (h.symm.trans (exec_convert_luma_error hmsize hluma)))

end

/-- A stage command is one of the five stages alone (R98). -/
theorem stageCommand_runsStage {i : Instr} (hi : i ∈ stageCommands) : ∃ f ∈ stages, RunsStage i f := by
  obtain ⟨k, hk, rfl⟩ := List.getElem_of_mem hi
  have hk' : k < stages.length := stageCommands_runStage.length_eq ▸ hk
  exact ⟨stages[k], List.getElem_mem hk', stageCommands_runStage.get hk hk'⟩

/-- Settles O40: each stage command is one stage alone, and dispatch raises on a word that does not decode. -/
theorem faultsChangeOnlyErrAndErrstg : Obligations.FaultsChangeOnlyErrAndErrstg := by
  refine ⟨fun i hi s t h => ?_, fun s w e hdec herr => present_illegal hdec herr⟩
  obtain ⟨f, hf, hruns⟩ := stageCommand_runsStage hi
  obtain rfl := Host.Outcome.next.inj ((hruns s).symm.trans h)
  rcases runStages_single_outcome hf s with ⟨-, hkeep⟩ | ⟨r, -, hrun⟩
  · exact .inl hkeep
  · exact .inr ⟨r, hrun⟩

/-- Settles O41: a word that ends with ERR not 0 was illegal, or its command raised; what was written then besides ERR
and ERRSTG is GEN's matrix at most. -/
theorem noPartialOutputOnAFault : Obligations.NoPartialOutputOnAFault := by
  intro w s t herr h hfault
  cases hdec : decode w with
  | error e =>
    obtain rfl := Host.Outcome.next.inj ((present_illegal hdec herr).symm.trans h)
    exact ⟨rfl, rfl, rfl, rfl, rfl, rfl, rfl, rfl, rfl, rfl⟩
  | ok i =>
    rw [present_eq_exec hdec (.inl herr)] at h
    rcases exec_outcome herr h with ⟨-, hzero⟩ | ⟨r, -, rfl | rfl⟩
    · exact absurd hzero hfault
    · exact ⟨rfl, rfl, rfl, rfl, rfl, rfl, rfl, rfl, rfl, rfl⟩
    · exact ⟨rfl, rfl, rfl, rfl, rfl, rfl, rfl, rfl, rfl, rfl⟩

/-! ### The causes of each fault -/

/-- The five codes are different (R102). -/
theorem FaultKind.code_inj {k k' : FaultKind} (h : k.code = k'.code) : k = k' := by
  revert h
  cases k <;> cases k' <;> decide

/-- The faults of the stages have the codes 1 to 4 (R102). -/
theorem FaultKind.code_le {k : FaultKind} (h : k ≠ .illegalCommand) : k.code ≤ 4#3 := by
  revert h
  cases k <;> decide

section
variable {s t : State} {i : Instr}

/-- What a raise has recorded, in the state before the command or behind GEN's matrix (R106). -/
theorem fault_recorded {r : Raise} (ht : t = s.takeFault r ∨ t = s.afterGen.takeFault r) :
    t.err = r.kind.code ∧ t.errstg = r.stage.number := by
  rcases ht with rfl | rfl <;> exact ⟨rfl, rfl⟩

/-- ERR holds a code after a command exactly when the command raised a fault of that kind (R106). -/
theorem err_eq_code_iff (herr : s.err = 0#3) (h : exec i s = .next t) (k : FaultKind) :
    t.err = k.code ↔ ∃ g, s.raises i ⟨k, g⟩ := by
  rcases exec_outcome herr h with ⟨hno, hzero⟩ | ⟨r, hr, ht⟩
  · have hcode : k.code ≠ 0#3 := takeFault_err_ne_zero s ⟨k, .gen⟩
    simp [hzero, hno, hcode.symm]
  · rw [(fault_recorded ht).1]
    constructor
    · intro hk
      obtain rfl := FaultKind.code_inj hk
      exact ⟨r.stage, hr⟩
    · rintro ⟨g, hg⟩
      rw [raises_unique hr hg]

/-- The causes of InvalidParameter (R103). -/
theorem raises_invalidParameter_iff : (∃ g, s.raises i ⟨.invalidParameter, g⟩) ↔
    (i = .gen ∨ i = .convert) ∧ isValidN s.msize.toNat = false := by
  simp [raises_iff]

/-- The causes of MalformedInput (R105). -/
theorem raises_malformedInput_iff : (∃ g, s.raises i ⟨.malformedInput, g⟩) ↔
    (i = .luma ∨ (i = .convert ∧ isValidN s.msize.toNat = true)) ∧ s.pixok = 0#1 := by
  simp [raises_iff]

/-- The causes of NotReady (R107). -/
theorem raises_notReady_iff : (∃ g, s.raises i ⟨.notReady, g⟩) ↔
    (i = .dither ∧ (s.lum.valid = 0#1 ∨ s.bayer.valid = 0#1)) ∨ (i = .invert ∧ s.dbit.valid = 0#1) ∨
      (i = .pack ∧ s.sbit.valid = 0#1) := by
  simp [raises_iff, exists_or]

/-- The causes of DimensionMismatch (R104). -/
theorem raises_dimensionMismatch_iff : (∃ g, s.raises i ⟨.dimensionMismatch, g⟩) ↔
    ((i = .luma ∨ (i = .convert ∧ isValidN s.msize.toNat = true)) ∧ s.pixok = 1#1 ∧
      (s.ch ≠ 3#8 ∨ s.dimensionsLegal = false)) ∨
    (i = .dither ∧ s.lum.valid = 1#1 ∧ s.bayer.valid = 1#1 ∧
      (s.lum.rows ≠ s.rows ∨ s.lum.cols ≠ s.cols ∨ s.bayer.size ≠ s.msize)) ∨
    (i = .invert ∧ s.dbit.valid = 1#1 ∧ (s.dbit.rows ≠ s.rows ∨ s.dbit.cols ≠ s.cols)) ∨
    (i = .pack ∧ s.sbit.valid = 1#1 ∧ (s.sbit.rows ≠ s.rows ∨ s.sbit.cols ≠ s.cols)) := by
  simp [raises_iff, exists_or]

/-- A command records no code above 4, and with its code the stage that raised: 1 with InvalidParameter, and otherwise
the stage of the command, LUMA's for CONVERT (R17, R98). -/
theorem exec_errstg (herr : s.err = 0#3) (h : exec i s = .next t) :
    t.err ≤ 4#3 ∧ (t.err = 1#3 → t.errstg = 1#3) ∧ (t.err ≠ 0#3 → t.err ≠ 1#3 →
      ((i = .luma ∨ i = .convert) ∧ t.errstg = 2#3) ∨ (i = .dither ∧ t.errstg = 3#3) ∨
        (i = .invert ∧ t.errstg = 4#3) ∨ (i = .pack ∧ t.errstg = 5#3)) := by
  rcases exec_outcome herr h with ⟨-, hzero⟩ | ⟨r, hr, ht⟩
  · simp [hzero]
  obtain ⟨hcode, hstage⟩ := fault_recorded ht
  rw [hcode, hstage]
  rcases raises_stage hr with rfl | ⟨hkind, hlegal, hstages⟩
  · simp [FaultKind.code, Stage.number]
  · refine ⟨FaultKind.code_le hlegal, fun hone => absurd (FaultKind.code_inj hone) hkind, fun _ _ => ?_⟩
    rcases hstages with ⟨hi, hg⟩ | ⟨hi, hg⟩ | ⟨hi, hg⟩ | ⟨hi, hg⟩ <;> simp [hi, hg, Stage.number]

/-- Presented with ERR = 0, a word that decodes to no command raises IllegalCommand, no other word does, and a word that
decodes is executed (R96, R108). -/
theorem present_illegal_iff {w : Word} (herr : s.err = 0#3) (h : present w s = .next t) :
    (t.err = 5#3 ↔ ∃ e, decode w = .error e) ∧ (t.err = 5#3 → t.errstg = 7#3) ∧
      ∀ i, decode w = .ok i → exec i s = .next t := by
  cases hdec : decode w with
  | error e =>
    obtain rfl := Host.Outcome.next.inj ((present_illegal hdec herr).symm.trans h)
    simp [FaultKind.code, Stage.number]
  | ok i =>
    rw [present_eq_exec hdec (.inl herr)] at h
    obtain ⟨hle, -⟩ := exec_errstg herr h
    have hne : t.err ≠ 5#3 := fun h5 => by simp [h5] at hle
    simp [hne, h]

end

/-- Settles O42: the causes of each code from the table of raises, the stages from the raises' stage numbers, and the
order of dispatch from R96. -/
theorem eachFaultHasExactlyItsCauses : Obligations.EachFaultHasExactlyItsCauses := by
  refine ⟨fun i s t herr h => ?_, fun w s t h => ⟨fun hw hne => ?_, fun herr => present_illegal_iff herr h⟩⟩
  · have hcode := err_eq_code_iff herr h
    obtain ⟨hle, hgen, hstages⟩ := exec_errstg herr h
    refine ⟨(hcode .invalidParameter).trans raises_invalidParameter_iff,
      (hcode .malformedInput).trans raises_malformedInput_iff, (hcode .notReady).trans raises_notReady_iff,
      (hcode .dimensionMismatch).trans raises_dimensionMismatch_iff, ?_, ?_, ?_, hgen, hstages⟩
    all_goals
      intro habove
      simp [habove] at hle
  · exact Host.Outcome.next.inj (h.symm.trans (present_discarded hw hne))

end Sys2Proof.Machine
end

section
/-! SUPPORT. Proofs on the reset input (70_reset_and_hazards.md, R114, R115): what the step answers to it, and how RST
differs from it. -/

namespace Sys2Proof.Machine

/-- The step answers the reset input with the power-on reset, whatever the state (R114). -/
theorem step_of_resetInput {s : State} {rest : List HostAction} (hin : s.input = .resetInput :: rest) :
    step s = .next (s.withInput rest).powerOnReset := step_of_input hin

/-- RST is the power-on reset but for what it keeps: PIX, with the counter its unwritten bytes depend on, and the two
histories (R115, R116). -/
theorem softReset_eq_powerOnReset (s : State) :
    s.softReset = { s.powerOnReset with pix := s.pix, out := s.out, txt := s.txt, powerOns := s.powerOns } := rfl

/-- Settles O39: the step is the power-on reset, which holds the values of R29, and RST is that reset with the fields of
R115 kept. -/
theorem resetInputGivesThePowerOnState : Obligations.ResetInputGivesThePowerOnState := by
  intro s rest hin
  refine ⟨(s.withInput rest).powerOnReset, step_of_resetInput hin, ?_⟩
  -- One equation for each register, flag, tag and history of R29, and for each field of the model's own that stays.
  iterate 25 refine ⟨rfl, ?_⟩
  exact ⟨(s.withInput rest).softReset, rfl, softReset_eq_powerOnReset _⟩

end Sys2Proof.Machine
end
